-- ==== Sys2Proof/Word.lean ====
section
/-! DEFINITION. The value types of the block (spec/00_scope.md R7, R8): bytes, buffers, addresses, times. -/

namespace Sys2Proof

/-- A byte: bit 7 is its most significant bit (R7). -/
abbrev Byte := BitVec 8

/-- A finite sequence of bytes (R7): a packet buffer, a payload, or a wire string of 8-bit characters
(PRESUMED ASCII, log entry 24). -/
abbrev Buf := List Byte

/-- A time or an interval, `TW = 32` bits (R331). -/
abbrev Ticks := BitVec 32

/-- A 4-bit peer address of a header field (R42, R84); also the index of `SEQ` and of `RT`. -/
abbrev Addr := BitVec 4

/-- A 3-bit packet type (R114). -/
abbrev PType := BitVec 3

end Sys2Proof
end

