-- ==== Sys2Proof/Config.lean ====
section
/-! DEFINITION. What an implementation fixes: the constants of R5, the decided codes of R114, the parameter record of
R6, the kinds of answers the outside gives (R128), and the free values (constants without a body). -/

namespace Sys2Proof

namespace Config

/-! ## Parameters the source fixes (R5) -/

/-- `HDR_LEN` (R5). -/
def hdrLen : Nat := 5
/-- `BLK` (R5): padding boundary in bytes under encryption. -/
def blk : Nat := 16
/-- `KEY_LEN` (R5). -/
def keyLen : Nat := 32
/-- `ADDR_GATEWAY` (R5). -/
def addrGateway : Addr := 0
/-- `ADDR_BROADCAST` (R5). -/
def addrBroadcast : Addr := 15
/-- `ADDR_UNASSIGNED` (R5). -/
def addrUnassigned : Byte := 255

/-! ## Packet types (R114): the decided codes D4. The header rows of spec/opcode_table.json are named after them, and they
are the defaults of the parameters `Params.tPing` to `Params.tId`, which alone give a code its meaning (log entry 6). -/

/-- `T_PING` (R114). -/
def tPing : PType := 0
/-- `T_OTA` (R114). -/
def tOta : PType := 1
/-- `T_DATA` (R114). -/
def tData : PType := 2
/-- `T_ACK` (R114). -/
def tAck : PType := 3
/-- `T_ID` (R114). -/
def tId : PType := 4

end Config

/-- The parameters of R6 that the source leaves open: an argument of the model, held as plain data (log entry 5). -/
structure Params where
  /-- The code of `T_PING` (R114, U1). -/
  tPing : PType
  /-- The code of `T_OTA`. -/
  tOta : PType
  /-- The code of `T_DATA`. -/
  tData : PType
  /-- The code of `T_ACK`. -/
  tAck : PType
  /-- The code of `T_ID`. -/
  tId : PType
  /-- `MTU`, at least 21. -/
  mtu : Nat
  /-- `Q_CAP`, at least 1. -/
  qCap : Nat
  /-- `Q_DEPTH`, at least `Q_CAP`; `none` is infinity. -/
  qDepth : Option Nat
  /-- `FRAG_MAX`, at least 1; `none` is infinity. -/
  fragMax : Option Nat
  /-- `MIN_LISTEN`: the entry of each selector value of `CFG_SF` (R37, 3 bits), `none` where the table has none. Any set of
  selectors may have an entry: the spec leaves the index set open (GK6). -/
  minListen : Vector (Option Ticks) 8
  /-- `MIN_GAP`. -/
  minGap : Nat
  /-- `MAX_TX_WINDOW`. -/
  maxTxWindow : Nat
  /-- `QUIET_PERIOD`. -/
  quietPeriod : Nat
  /-- `VERSION_CUR`. -/
  versionCur : BitVec 3
  /-- `KNOWN_VERSIONS`. -/
  knownVersions : List (BitVec 3)
  /-- Reset value of `CFG_TIMEOUT`. -/
  resetTimeout : Ticks
  /-- Reset value of `CFG_MAXRETRY`, 0..254. -/
  resetMaxRetry : Byte
  deriving DecidableEq, Repr

/-- `MAX_PAYLOAD = MTU - 5 - 15` (R118). -/
def Params.maxPayload (p : Params) : Nat := p.mtu - Config.hdrLen - (Config.blk - 1)

/-- `KNOWN_TYPES` (R114). -/
def Params.knownTypes (p : Params) : List PType := [p.tPing, p.tOta, p.tData, p.tAck, p.tId]

/-- The types exempt from the queue cap (R193): ACK, ID, OTA. -/
def Params.exemptTypes (p : Params) : List PType := [p.tAck, p.tId, p.tOta]

/-- What R6 says of the parameters' values. -/
abbrev Params.Ok (p : Params) : Prop :=
  p.knownTypes.Nodup ∧ 21 ≤ p.mtu ∧ 1 ≤ p.qCap ∧ (∀ d ∈ p.qDepth, p.qCap ≤ d) ∧ (∀ f ∈ p.fragMax, 1 ≤ f) ∧
    (p.minListen.toList.filterMap id).Pairwise (fun a b => a.toNat ≤ b.toNat) ∧ p.versionCur ∈ p.knownVersions ∧
    p.resetMaxRetry.toNat ≤ 254

/-- The defaults of R6's table, used in 95_test_vectors.md. DESIGN CHOICE (unsafe if a statement rests on them; log
entry 5), among them that each of the eight selector values has a `MIN_LISTEN` entry: the spec leaves the index set open. -/
def Params.default : Params where
  tPing := Config.tPing
  tOta := Config.tOta
  tData := Config.tData
  tAck := Config.tAck
  tId := Config.tId
  mtu := 255
  qCap := 8
  qDepth := some 16
  fragMax := some 16
  minListen := Vector.replicate 8 (some 100)
  minGap := 10
  maxTxWindow := 500
  quietPeriod := 20
  versionCur := 1
  knownVersions := [1]
  resetTimeout := 1000
  resetMaxRetry := 3

/-- The answer of `RADIO.pollReceive()` (R128): a received hex string with its signal quality (opaque, R128; an
integer here, log entry 25), or one of three events without data. -/
inductive PollAnswer
  | received (s : Buf) (q : Int)
  | timeout
  | noEvent
  | unknown
  deriving DecidableEq, Repr, Inhabited

/-- Who takes the next atomic sub-step when an operation is in progress (R86, R87): the command port, the tick in
progress, or the `k`-th `LS.SEND` in progress. -/
inductive Turn
  | port
  | tick
  | send (k : Nat)
  deriving DecidableEq, Repr, Inhabited

namespace Config

/-! ## Free values: constants without a body (log entries 8 to 10, 12, 13, 19, 21, 22) -/

/-- `Enc` and `Dec` (R158): for each 32-byte key and each number `n` of 16-byte blocks a permutation of the buffers
of `16 n` bytes; `Enc` is the permutation, `Dec` its inverse. On a finite set this is exactly the law
`Dec(k, Enc(k, b)) = b` with length preservation. -/
opaque cipher : Vector Byte 32 → (n : Nat) → Equiv.Perm (Vector Byte (16 * n))

/-- The answer of `RADIO.pollReceive` when the script of answers is exhausted (U15). -/
opaque freePoll : Nat → PollAnswer
/-- The answer of `RADIO.transmit` (SUCCESS is `true`) when the script is exhausted (U15). -/
opaque freeTransmit : Nat → Bool
/-- The answer of `RADIO.initialize` when the script is exhausted (U15). -/
opaque freeInit : Nat → Bool
/-- The answer `known` of `REG.observe` when the script is exhausted (U15). -/
opaque freeKnown : Nat → Bool
/-- The raw jitter draw when the script is exhausted (U14). -/
opaque freeDraw : Nat → Ticks
/-- Who wins the lock when the script of turns is exhausted (U16). -/
opaque freeTurn : Nat → Turn
/-- Where an operation made of sub-steps is interrupted when the script of interruptions is exhausted (U16, R87). -/
opaque freeCut : Nat → Option Nat
/-- `last_sent` of an entry that was never marked sent (R192 "last_sent = unspecified", U12). -/
opaque freeLastSent : Nat → Ticks
/-- `MIN_LISTEN` of a spreading factor that has no entry (R372 "uses an unspecified `MIN_LISTEN` entry"). -/
opaque freeMinListen : BitVec 3 → Ticks
/-- Byte `i` of a buffer that has no byte `i` (R377: the field views are not defined there). -/
opaque freeByte : Buf → Nat → Byte
/-- The payload view of a buffer with `padlen > n - 5` (R113: not defined there). -/
opaque freePayload : Buf → Buf

end Config

end Sys2Proof
end

