-- ==== Sys2Proof/Syntax.lean ====
section
/-! DEFINITION. The operation set as data (spec/30_encoding.md): one constructor of `Instr` per row of
spec/opcode_table.json, with the operands of R124, R111, R122, R129 and R123. -/

namespace Sys2Proof

/-- Priorities (R123). -/
inductive Prio
  | low
  | high
  | highest
  deriving DecidableEq, Repr

/-- The numeric order of priorities (R123): `LOW = 0 < HIGH = 1 < HIGHEST = 2`. -/
def Prio.num : Prio → Nat
  | .low => 0
  | .high => 1
  | .highest => 2

/-- The five scheduler states (R32). -/
inductive SchedState
  | init
  | listening
  | transmitting
  | enterListen
  | enterTransmit
  deriving DecidableEq, Repr

/-- The configuration registers by number (R37); number 7 is `FLT`. -/
inductive CfgReg
  | addr
  | sf
  | keyEn
  | key
  | timeout
  | maxRetry
  | promisc
  | flt
  deriving DecidableEq, Repr

/-- Width in bits of a configuration register (R37). -/
def CfgReg.width : CfgReg → Nat
  | .addr => 8
  | .sf => 3
  | .keyEn => 1
  | .key => 256
  | .timeout => 32
  | .maxRetry => 8
  | .promisc => 1
  | .flt => 8

/-- The header fields other than the type (R111). -/
structure Hdr where
  version : BitVec 3
  qos : Bool
  split : Bool
  padlen : Byte
  src : Addr
  dst : Addr
  csum : Byte
  seq : Byte
  deriving DecidableEq, Repr

/-- The five formats of spec/opcode_table.json (R110, R123, R129). -/
inductive Format
  | cmd
  | hdr
  | ackp
  | state
  | prio
  deriving DecidableEq, Repr

/-- The operations. The `cmd` rows carry the operands of R124 in its order; the `hdr` rows the other header fields and
the bytes after the header (payload and padding); `ackp` the acknowledged number; the `state` rows the tick's `now`;
the `prio` rows the other operands of `TQ.ENQ`. R124 gives the value operand of `CFG.WR` no width: it is a number. The
`hdr` rows are named after the decided type codes (R114, D4; log entry 6). -/
inductive Instr
  | pktEncode (payload : Buf) (type : PType) (qos split : Bool) (src dst : Addr)
  | pktCsum (p : Buf)
  | pktCheck (p : Buf)
  | pktToWire (p : Buf) (key : Option Buf)
  | pktFromWire (s : Buf) (key : Option Buf)
  | pktFrag (data : Buf) (type : PType) (qos : Bool) (src dst : Addr)
  | tqEnq (p : Buf) (dest : Addr) (prio : Prio) (droppable : Bool)
  | tqPeek (now : Ticks)
  | tqNext (now : Ticks)
  | tqMark (p : Buf) (now : Ticks)
  | tqRmkey (dest : Addr) (seq : Byte)
  | tqClean (now : Ticks)
  | rtAccept (a : Addr) (p : Buf)
  | lsTick (now : Ticks)
  | lsSend (data : Buf) (type : PType) (dest : Byte) (requireAck allowDrop : Bool)
  | lsReset
  | cfgWr (reg : CfgReg) (value : Nat)
  | cfgRd (reg : CfgReg)
  | tPing (h : Hdr) (body : Buf)
  | tOta (h : Hdr) (body : Buf)
  | tData (h : Hdr) (body : Buf)
  | tAck (h : Hdr) (body : Buf)
  | tId (h : Hdr) (body : Buf)
  | hdrReserved5 (h : Hdr) (body : Buf)
  | hdrReserved6 (h : Hdr) (body : Buf)
  | hdrReserved7 (h : Hdr) (body : Buf)
  | ackp (acked : Byte)
  | stInit (now : Ticks)
  | stListening (now : Ticks)
  | stTransmitting (now : Ticks)
  | stEnterListen (now : Ticks)
  | stEnterTransmit (now : Ticks)
  | prioLow (p : Buf) (dest : Addr) (droppable : Bool)
  | prioHigh (p : Buf) (dest : Addr) (droppable : Bool)
  | prioHighest (p : Buf) (dest : Addr) (droppable : Bool)
  deriving DecidableEq, Repr

/-- The format an operation's words have. -/
def Instr.format : Instr → Format
  | .pktEncode .. | .pktCsum .. | .pktCheck .. | .pktToWire .. | .pktFromWire .. | .pktFrag .. | .tqEnq .. | .tqPeek ..
  | .tqNext .. | .tqMark .. | .tqRmkey .. | .tqClean .. | .rtAccept .. | .lsTick .. | .lsSend .. | .lsReset | .cfgWr ..
  | .cfgRd .. => .cmd
  | .tPing .. | .tOta .. | .tData .. | .tAck .. | .tId .. | .hdrReserved5 .. | .hdrReserved6 .. | .hdrReserved7 .. => .hdr
  | .ackp .. => .ackp
  | .stInit .. | .stListening .. | .stTransmitting .. | .stEnterListen .. | .stEnterTransmit .. => .state
  | .prioLow .. | .prioHigh .. | .prioHighest .. => .prio

/-- The mnemonic of the operation (R126; the table's spelling). -/
def Instr.mnemonic : Instr → String
  | .pktEncode .. => "PKT.ENCODE"
  | .pktCsum .. => "PKT.CSUM"
  | .pktCheck .. => "PKT.CHECK"
  | .pktToWire .. => "PKT.TOWIRE"
  | .pktFromWire .. => "PKT.FROMWIRE"
  | .pktFrag .. => "PKT.FRAG"
  | .tqEnq .. => "TQ.ENQ"
  | .tqPeek .. => "TQ.PEEK"
  | .tqNext .. => "TQ.NEXT"
  | .tqMark .. => "TQ.MARK"
  | .tqRmkey .. => "TQ.RMKEY"
  | .tqClean .. => "TQ.CLEAN"
  | .rtAccept .. => "RT.ACCEPT"
  | .lsTick .. => "LS.TICK"
  | .lsSend .. => "LS.SEND"
  | .lsReset => "LS.RESET"
  | .cfgWr .. => "CFG.WR"
  | .cfgRd .. => "CFG.RD"
  | .tPing .. => "T_PING"
  | .tOta .. => "T_OTA"
  | .tData .. => "T_DATA"
  | .tAck .. => "T_ACK"
  | .tId .. => "T_ID"
  | .hdrReserved5 .. => "HDR.RESERVED5"
  | .hdrReserved6 .. => "HDR.RESERVED6"
  | .hdrReserved7 .. => "HDR.RESERVED7"
  | .ackp .. => "ACKP"
  | .stInit .. => "ST.INIT"
  | .stListening .. => "ST.LISTENING"
  | .stTransmitting .. => "ST.TRANSMITTING"
  | .stEnterListen .. => "ST.ENTER_LISTEN"
  | .stEnterTransmit .. => "ST.ENTER_TRANSMIT"
  | .prioLow .. => "PRIO.LOW"
  | .prioHigh .. => "PRIO.HIGH"
  | .prioHighest .. => "PRIO.HIGHEST"

end Sys2Proof
end

