-- ==== Sys2Proof/WellFormed.lean ====
section
/-! DEFINITION. Which operations the command port can carry (R125 (e)): every operand in the range of its type. Almost every
range is a type of `Syntax.lean`; what is left is the value operand of `CFG.WR`, which R124 gives no width. -/

namespace Sys2Proof

/-- Does a value fit the register (R37)? A value that does not is not legal for it (R282). -/
def CfgReg.fits (r : CfgReg) (v : Nat) : Bool := decide (v < 2 ^ r.width)

/-- Every operand is in the range the port can carry: a value of `CFG.WR` has at most the 256 bits of the widest register
(DESIGN CHOICE, log entry 23). -/
def Instr.wellFormed : Instr → Bool
  | .cfgWr _ v => decide (v < 2 ^ 256)
  | .pktEncode .. | .pktCsum .. | .pktCheck .. | .pktToWire .. | .pktFromWire .. | .pktFrag .. | .tqEnq .. | .tqPeek ..
  | .tqNext .. | .tqMark .. | .tqRmkey .. | .tqClean .. | .rtAccept .. | .lsTick .. | .lsSend .. | .lsReset
  | .cfgRd .. => true
  | .tPing .. | .tOta .. | .tData .. | .tAck .. | .tId .. | .hdrReserved5 .. | .hdrReserved6 .. | .hdrReserved7 .. => true
  | .ackp .. => true
  | .stInit .. | .stListening .. | .stTransmitting .. | .stEnterListen .. | .stEnterTransmit .. => true
  | .prioLow .. | .prioHigh .. | .prioHighest .. => true

end Sys2Proof
end

