-- ==== Sys2Proof/Machine/Operands.lean ====
section
/-! DEFINITION. Operand forms: the views of a packet buffer (spec/20_memory.md R80, spec/30_encoding.md R112, R113),
its checksum (R153), its padding (R117), the wire (hex) form (R119, R120) and the chunks of a fragmented payload (R159).
Pure functions of their operands. -/

namespace Sys2Proof.Machine

/-! ## Field views (R113) -/

/-- Byte `i` of a buffer; a free value where the buffer has none (R377: not defined; log entry 19). -/
def byteAt (buf : Buf) (i : Nat) : Byte :=
  match buf[i]? with
  | some b => b
  | none => Config.freeByte buf i

/-- `version(buf) = buf[0][7:5]` (R113). -/
def versionOf (buf : Buf) : BitVec 3 := (byteAt buf 0).extractLsb' 5 3

/-- `qos(buf) = buf[0][4]` (R113); 1 is at-least-once (R116). -/
def qosOf (buf : Buf) : Bool := (byteAt buf 0).getLsbD 4

/-- `split(buf) = buf[0][3]` (R113); 1 marks a fragment that is not the last (R116). -/
def splitOf (buf : Buf) : Bool := (byteAt buf 0).getLsbD 3

/-- `type(buf) = buf[0][2:0]` (R113). -/
def typeOf (buf : Buf) : PType := (byteAt buf 0).extractLsb' 0 3

/-- `padlen(buf) = buf[1]` (R113). -/
def padlenOf (buf : Buf) : Byte := byteAt buf 1

/-- `src(buf) = buf[2][7:4]` (R113). -/
def srcOf (buf : Buf) : Addr := (byteAt buf 2).extractLsb' 4 4

/-- `dst(buf) = buf[2][3:0]` (R113). -/
def dstOf (buf : Buf) : Addr := (byteAt buf 2).extractLsb' 0 4

/-- `csum(buf) = buf[3]` (R113). -/
def csumOf (buf : Buf) : Byte := byteAt buf 3

/-- `seq(buf) = buf[4]` (R113). -/
def seqOf (buf : Buf) : Byte := byteAt buf 4

/-- A packet is valid (R150): at least a header, and the padding length fits. -/
def validPkt (buf : Buf) : Bool :=
  decide (Config.hdrLen ≤ buf.length) && decide ((padlenOf buf).toNat ≤ buf.length - Config.hdrLen)

/-- `payload(buf) = buf[5 .. 5 + paylen(buf))` (R113), defined on a valid packet; a free value elsewhere (log
entry 19). -/
def payloadOf (buf : Buf) : Buf :=
  if validPkt buf then (buf.drop Config.hdrLen).take (buf.length - Config.hdrLen - (padlenOf buf).toNat)
  else Config.freePayload buf

/-! ## Packing (R112) -/

/-- Byte 0 of a header (R112). -/
def ctrlByte (version : BitVec 3) (qos split : Bool) (type : PType) : Byte :=
  (version.zeroExtend 8 <<< 5) ||| ((BitVec.ofBool qos).zeroExtend 8 <<< 4) |||
    ((BitVec.ofBool split).zeroExtend 8 <<< 3) ||| type.zeroExtend 8

/-- Byte 2 of a header (R112). -/
def addrByte (src dst : Addr) : Byte := (src.zeroExtend 8 <<< 4) ||| dst.zeroExtend 8

/-- `pack_hdr` (R112). -/
def packHdr (h : Hdr) (type : PType) : Buf :=
  [ctrlByte h.version h.qos h.split type, h.padlen, addrByte h.src h.dst, h.csum, h.seq]

/-- The header fields other than the type, read by the views of R113. -/
def unpackHdr (buf : Buf) : Hdr where
  version := versionOf buf
  qos := qosOf buf
  split := splitOf buf
  padlen := padlenOf buf
  src := srcOf buf
  dst := dstOf buf
  csum := csumOf buf
  seq := seqOf buf

/-! ## Checksum (R8, R153, R154) -/

/-- `xor_all` (R8). -/
def xorAll : Buf → Byte
  | [] => 0
  | b :: bs => b ^^^ xorAll bs

/-- `MemWrite(buf, i, 1, v)` (R9). -/
def memWrite (buf : Buf) (i : Nat) (v : Byte) : Buf := buf.set i v

/-- The checksum of a packet: the XOR of every byte except byte 3 (R153), that is `xor_all(MemWrite(p, 3, 1, 0))`. -/
def csumVal (p : Buf) : Byte := xorAll (memWrite p 3 0)

/-- `PKT.SEAL` (R154). -/
def sealPkt (p : Buf) : Buf := memWrite p 3 (csumVal p)

/-! ## Building a packet (R117, R152) -/

/-- Padding length at encode (R117), for a payload of `l` bytes. -/
def padlenFor (keyEn : Bool) (l : Nat) : Nat :=
  if keyEn then (Config.blk - (Config.hdrLen + l) % Config.blk) % Config.blk else 0

/-- The packet `PKT.ENCODE` builds (R152): header with checksum and sequence byte 0, payload, zero padding. -/
def buildPkt (version : BitVec 3) (keyEn : Bool) (payload : Buf) (type : PType) (qos split : Bool) (src dst : Addr) :
    Buf :=
  packHdr ⟨version, qos, split, BitVec.ofNat 8 (padlenFor keyEn payload.length), src, dst, 0, 0⟩ type ++
    payload ++ List.replicate (padlenFor keyEn payload.length) 0

/-- The `k` chunks of `PKT.FRAG` (R159): chunk `i` is `data[i*m .. min((i+1)*m, N))`, with `k = ceil(N / m)`. -/
def chunksOf (m : Nat) (data : Buf) : List Buf :=
  (List.range ((data.length + m - 1) / m)).map fun i => (data.drop (i * m)).take m

/-! ## Hex (R119, R120) -/

/-- One of `0123456789ABCDEF` (R119), as a character code. -/
def hexDigit (n : BitVec 4) : Byte :=
  if n.toNat < 10 then 0x30 + n.zeroExtend 8 else 0x37 + n.zeroExtend 8

/-- `val(c)` for the characters `0123456789ABCDEFabcdef` (R120). -/
def hexVal (c : Byte) : Option (BitVec 4) :=
  if 0x30 ≤ c.toNat ∧ c.toNat ≤ 0x39 then some (BitVec.ofNat 4 (c.toNat - 0x30))
  else if 0x41 ≤ c.toNat ∧ c.toNat ≤ 0x46 then some (BitVec.ofNat 4 (c.toNat - 0x37))
  else if 0x61 ≤ c.toNat ∧ c.toNat ≤ 0x66 then some (BitVec.ofNat 4 (c.toNat - 0x57))
  else none

/-- `hex` (R119): the high nibble of each byte first. -/
def hex : Buf → Buf
  | [] => []
  | b :: bs => hexDigit (b.extractLsb' 4 4) :: hexDigit (b.extractLsb' 0 4) :: hex bs

/-- `unhex` (R120); `none` where the rule leaves it undefined: odd length, or a character that is no hex digit. -/
def unhex : Buf → Option Buf
  | [] => some []
  | [_] => none
  | c :: d :: rest =>
    match hexVal c, hexVal d, unhex rest with
    | some h, some l, some bs => some (BitVec.ofNat 8 (16 * h.toNat + l.toNat) :: bs)
    | _, _, _ => none

/-! ## The cipher (R158) -/

/-- The 32 bytes of `CFG_KEY` (R37, R81 (g)), byte 0 in the least significant bits (log entry 23). -/
def keyBytes (k : BitVec 256) : Buf := (List.range Config.keyLen).map fun i => k.extractLsb' (8 * i) 8

/-- A function of `16 n`-byte vectors applied to a buffer of that length; other lengths, and keys of another length
than 32, never reach it (R156, R157). -/
def onBlocks (f : Vector Byte 32 → (n : Nat) → Vector Byte (16 * n) → Vector Byte (16 * n)) (key b : Buf) : Buf :=
  if h : key.length = 32 ∧ b.length = 16 * (b.length / 16) then
    (f ⟨key.toArray, h.1⟩ (b.length / 16) ⟨b.toArray, h.2⟩).toList
  else b

/-- `Enc(key, b)` (R158). -/
def enc (key b : Buf) : Buf := onBlocks (fun k n => Config.cipher k n) key b

/-- `Dec(key, b)` (R158). -/
def dec (key b : Buf) : Buf := onBlocks (fun k n => (Config.cipher k n).symm) key b

end Sys2Proof.Machine
end

