-- ==== Sys2Proof/Decode.lean ====
section
/-! DEFINITION. The decoder, total on any bytes, and the encoder. The formats, fields and codes are those of
spec/30_encoding.md; how the operands of a command follow its opcode is not specified there (R124, U27) and is the
model's own DESIGN CHOICE (log entry 1): numbers little-endian in whole bytes, a buffer as its bytes each preceded by
01 and closed by 00, an optional buffer as 00 (absent) or 01 and the buffer. -/

namespace Sys2Proof

open Sys2Proof.Machine

/-- Why the decoder refuses a frame (R125 (e), (g)). -/
inductive DecodeError
  /-- The frame has no byte, or ends inside an operand. -/
  | truncated
  /-- The opcode is not in the table of R124. -/
  | unknownOpcode
  /-- A state code 5..7 (R129), or priority 3 (R123). -/
  | reservedCode
  /-- An operand wider than its type (R112, R125 (e)). -/
  | operandRange
  /-- A byte that is neither of the two marks of a buffer or of an optional key. -/
  | badMark
  deriving DecidableEq, Repr

/-- The outcome of reading one operand: its value and the bytes after it. -/
abbrev Parse (α : Type) := Except DecodeError (α × List Byte)

/-! ## Opcodes (R124) -/

def opPktEncode : Byte := 0x01
def opPktCsum : Byte := 0x02
def opPktCheck : Byte := 0x03
def opPktToWire : Byte := 0x04
def opPktFromWire : Byte := 0x05
def opPktFrag : Byte := 0x06
def opTqEnq : Byte := 0x10
def opTqPeek : Byte := 0x11
def opTqNext : Byte := 0x12
def opTqMark : Byte := 0x13
def opTqRmkey : Byte := 0x14
def opTqClean : Byte := 0x15
def opRtAccept : Byte := 0x20
def opLsTick : Byte := 0x30
def opLsSend : Byte := 0x31
def opLsReset : Byte := 0x32
def opCfgWr : Byte := 0x38
def opCfgRd : Byte := 0x39

/-- The opcodes of R124. -/
def opcodes : List Byte :=
  [opPktEncode, opPktCsum, opPktCheck, opPktToWire, opPktFromWire, opPktFrag, opTqEnq, opTqPeek, opTqNext, opTqMark,
    opTqRmkey, opTqClean, opRtAccept, opLsTick, opLsSend, opLsReset, opCfgWr, opCfgRd]

/-! ## Reading operands -/

/-- One byte. -/
def getByte : List Byte → Parse Byte
  | [] => .error .truncated
  | b :: r => .ok (b, r)

/-- An unsigned operand of `n ≤ 8` bits in one byte; a wider value is refused, never truncated (R112). -/
def getBits (n : Nat) (bs : List Byte) : Parse (BitVec n) :=
  match getByte bs with
  | .error e => .error e
  | .ok (b, r) => if b.toNat < 2 ^ n then .ok (BitVec.ofNat n b.toNat, r) else .error .operandRange

/-- A 1-bit operand in one byte. -/
def getBool (bs : List Byte) : Parse Bool :=
  match getBits 1 bs with
  | .error e => .error e
  | .ok (b, r) => .ok (b == 1, r)

/-- A little-endian number of `n` bytes. -/
def getNum : Nat → List Byte → Parse Nat
  | 0, bs => .ok (0, bs)
  | n + 1, bs =>
    match getByte bs with
    | .error e => .error e
    | .ok (b, r) =>
      match getNum n r with
      | .error e => .error e
      | .ok (v, r') => .ok (b.toNat + 256 * v, r')

/-- A time operand, 32 bits. -/
def getTicks (bs : List Byte) : Parse Ticks :=
  match getNum 4 bs with
  | .error e => .error e
  | .ok (v, r) => .ok (BitVec.ofNat 32 v, r)

/-- A buffer: 01 before each byte, 00 at the end. -/
def getBuf : List Byte → Parse Buf
  | [] => .error .truncated
  | [m] => if m = 0 then .ok ([], []) else if m = 1 then .error .truncated else .error .badMark
  | m :: b :: r =>
    if m = 0 then .ok ([], b :: r)
    else if m = 1 then
      match getBuf r with
      | .error e => .error e
      | .ok (bs, r') => .ok (b :: bs, r')
    else .error .badMark

/-- An optional buffer: 00 is absent, 01 is present. -/
def getKey (bs : List Byte) : Parse (Option Buf) :=
  match getByte bs with
  | .error e => .error e
  | .ok (m, r) =>
    if m = 0 then .ok (none, r)
    else if m = 1 then
      match getBuf r with
      | .error e => .error e
      | .ok (k, r') => .ok (some k, r')
    else .error .badMark

/-- A priority code (R123): 3 is no priority. -/
def prioOfCode (b : Byte) : Except DecodeError Prio :=
  if b = 0 then .ok .low else if b = 1 then .ok .high else if b = 2 then .ok .highest
  else if b = 3 then .error .reservedCode else .error .operandRange

/-- A priority operand (R123). -/
def getPrio (bs : List Byte) : Parse Prio :=
  match getByte bs with
  | .error e => .error e
  | .ok (b, r) =>
    match prioOfCode b with
    | .error e => .error e
    | .ok p => .ok (p, r)

/-- A configuration register number (R37). -/
def cfgRegOfNum (n : BitVec 3) : CfgReg :=
  if n = 0 then .addr else if n = 1 then .sf else if n = 2 then .keyEn else if n = 3 then .key
  else if n = 4 then .timeout else if n = 5 then .maxRetry else if n = 6 then .promisc else .flt

/-- A register operand, 3 bits (R124). -/
def getReg (bs : List Byte) : Parse CfgReg :=
  match getBits 3 bs with
  | .error e => .error e
  | .ok (n, r) => .ok (cfgRegOfNum n, r)

/-- A scheduler state code (R129): 5, 6, 7 are no states. -/
def stateOfCode (b : Byte) : Except DecodeError SchedState :=
  if b = 0 then .ok .init else if b = 1 then .ok .listening else if b = 2 then .ok .transmitting
  else if b = 3 then .ok .enterListen else if b = 4 then .ok .enterTransmit
  else if b.toNat < 8 then .error .reservedCode else .error .operandRange

/-! ## Decoding -/

/-- The operands of a command, by opcode (R124). Bytes after the last operand are not looked at (log entry 1). -/
def decodeOperands (op : Byte) (bs : List Byte) : Except DecodeError Instr := do
  if op = opPktEncode then
    let (payload, bs) ← getBuf bs
    let (type, bs) ← getBits 3 bs
    let (qos, bs) ← getBool bs
    let (split, bs) ← getBool bs
    let (src, bs) ← getBits 4 bs
    let (dst, _) ← getBits 4 bs
    return .pktEncode payload type qos split src dst
  else if op = opPktCsum then
    let (p, _) ← getBuf bs
    return .pktCsum p
  else if op = opPktCheck then
    let (p, _) ← getBuf bs
    return .pktCheck p
  else if op = opPktToWire then
    let (p, bs) ← getBuf bs
    let (key, _) ← getKey bs
    return .pktToWire p key
  else if op = opPktFromWire then
    let (s, bs) ← getBuf bs
    let (key, _) ← getKey bs
    return .pktFromWire s key
  else if op = opPktFrag then
    let (data, bs) ← getBuf bs
    let (type, bs) ← getBits 3 bs
    let (qos, bs) ← getBool bs
    let (src, bs) ← getBits 4 bs
    let (dst, _) ← getBits 4 bs
    return .pktFrag data type qos src dst
  else if op = opTqEnq then
    let (p, bs) ← getBuf bs
    let (dest, bs) ← getBits 4 bs
    let (prio, bs) ← getPrio bs
    let (droppable, _) ← getBool bs
    return .tqEnq p dest prio droppable
  else if op = opTqPeek then
    let (now, _) ← getTicks bs
    return .tqPeek now
  else if op = opTqNext then
    let (now, _) ← getTicks bs
    return .tqNext now
  else if op = opTqMark then
    let (p, bs) ← getBuf bs
    let (now, _) ← getTicks bs
    return .tqMark p now
  else if op = opTqRmkey then
    let (dest, bs) ← getBits 4 bs
    let (seq, _) ← getByte bs
    return .tqRmkey dest seq
  else if op = opTqClean then
    let (now, _) ← getTicks bs
    return .tqClean now
  else if op = opRtAccept then
    let (a, bs) ← getBits 4 bs
    let (p, _) ← getBuf bs
    return .rtAccept a p
  else if op = opLsTick then
    let (now, _) ← getTicks bs
    return .lsTick now
  else if op = opLsSend then
    let (data, bs) ← getBuf bs
    let (type, bs) ← getBits 3 bs
    let (dest, bs) ← getByte bs
    let (requireAck, bs) ← getBool bs
    let (allowDrop, _) ← getBool bs
    return .lsSend data type dest requireAck allowDrop
  else if op = opLsReset then
    return .lsReset
  else if op = opCfgWr then
    let (reg, bs) ← getReg bs
    let (v, _) ← getNum 32 bs
    return .cfgWr reg v
  else if op = opCfgRd then
    let (reg, _) ← getReg bs
    return .cfgRd reg
  else
    .error .unknownOpcode

/-- A command (R124): an 8-bit opcode followed by its operands. -/
def decodeCmd (bs : List Byte) : Except DecodeError Instr :=
  match getByte bs with
  | .error e => .error e
  | .ok (op, r) => decodeOperands op r

/-- The header row of a packet type, named after the decided codes (R114, R125 (a); log entry 6). -/
def instrOfType (type : PType) (h : Hdr) (body : Buf) : Instr :=
  if type = Config.tPing then .tPing h body
  else if type = Config.tOta then .tOta h body
  else if type = Config.tData then .tData h body
  else if type = Config.tAck then .tAck h body
  else if type = Config.tId then .tId h body
  else if type = 5 then .hdrReserved5 h body
  else if type = 6 then .hdrReserved6 h body
  else .hdrReserved7 h body

/-- A packet buffer (R111): five header bytes, then payload and padding. -/
def decodeHdr (buf : Buf) : Except DecodeError Instr :=
  if buf.length < Config.hdrLen then .error .truncated
  else .ok (instrOfType (typeOf buf) (unpackHdr buf) (buf.drop Config.hdrLen))

/-- The payload of an acknowledgement (R122): byte 0 is the acknowledged number, further bytes are ignored. -/
def decodeAckp : List Byte → Except DecodeError Instr
  | [] => .error .truncated
  | b :: _ => .ok (.ackp b)

/-- The handler a state selects (R261). -/
def instrOfState (st : SchedState) (now : Ticks) : Instr :=
  match st with
  | .init => .stInit now
  | .listening => .stListening now
  | .transmitting => .stTransmitting now
  | .enterListen => .stEnterListen now
  | .enterTransmit => .stEnterTransmit now

/-- A state code (R129) and the tick's `now`. -/
def decodeState (bs : List Byte) : Except DecodeError Instr := do
  let (b, bs) ← getByte bs
  let st ← stateOfCode b
  let (now, _) ← getTicks bs
  return instrOfState st now

/-- `TQ.ENQ` with a given priority (R123, R192). -/
def instrOfPrio (prio : Prio) (p : Buf) (dest : Addr) (droppable : Bool) : Instr :=
  match prio with
  | .low => .prioLow p dest droppable
  | .high => .prioHigh p dest droppable
  | .highest => .prioHighest p dest droppable

/-- A priority code (R123) and the other operands of `TQ.ENQ`. -/
def decodePrio (bs : List Byte) : Except DecodeError Instr := do
  let (prio, bs) ← getPrio bs
  let (p, bs) ← getBuf bs
  let (dest, bs) ← getBits 4 bs
  let (droppable, _) ← getBool bs
  return instrOfPrio prio p dest droppable

/-- The decoder: the operation the bytes stand for in a format, or why there is none. Total on any bytes. -/
def decode (fmt : Format) (bs : List Byte) : Except DecodeError Instr :=
  match fmt with
  | .cmd => decodeCmd bs
  | .hdr => decodeHdr bs
  | .ackp => decodeAckp bs
  | .state => decodeState bs
  | .prio => decodePrio bs

/-! ## Encoding -/

/-- An operand of at most 8 bits, in one byte. -/
def putBits (n : Nat) (v : BitVec n) : List Byte := [BitVec.ofNat 8 v.toNat]

/-- A 1-bit operand, in one byte. -/
def putBool (b : Bool) : List Byte := [if b then 1 else 0]

/-- A little-endian number of `n` bytes. -/
def putNum : Nat → Nat → List Byte
  | 0, _ => []
  | n + 1, v => BitVec.ofNat 8 v :: putNum n (v / 256)

/-- A time operand. -/
def putTicks (t : Ticks) : List Byte := putNum 4 t.toNat

/-- A buffer. -/
def putBuf : Buf → List Byte
  | [] => [0]
  | b :: bs => 1 :: b :: putBuf bs

/-- An optional buffer. -/
def putKey : Option Buf → List Byte
  | none => [0]
  | some k => 1 :: putBuf k

/-- The code of a priority (R123). -/
def codeOfPrio (p : Prio) : Byte := BitVec.ofNat 8 p.num

/-- The number of a configuration register (R37). -/
def CfgReg.num : CfgReg → BitVec 3
  | .addr => 0
  | .sf => 1
  | .keyEn => 2
  | .key => 3
  | .timeout => 4
  | .maxRetry => 5
  | .promisc => 6
  | .flt => 7

/-- The code of a scheduler state (R129). -/
def codeOfState : SchedState → Byte
  | .init => 0
  | .listening => 1
  | .transmitting => 2
  | .enterListen => 3
  | .enterTransmit => 4

/-- The bytes of an operation in its format. -/
def encode : Instr → List Byte
  | .pktEncode payload type qos split src dst =>
    opPktEncode :: (putBuf payload ++ putBits 3 type ++ putBool qos ++ putBool split ++ putBits 4 src ++ putBits 4 dst)
  | .pktCsum p => opPktCsum :: putBuf p
  | .pktCheck p => opPktCheck :: putBuf p
  | .pktToWire p key => opPktToWire :: (putBuf p ++ putKey key)
  | .pktFromWire s key => opPktFromWire :: (putBuf s ++ putKey key)
  | .pktFrag data type qos src dst =>
    opPktFrag :: (putBuf data ++ putBits 3 type ++ putBool qos ++ putBits 4 src ++ putBits 4 dst)
  | .tqEnq p dest prio droppable => opTqEnq :: (putBuf p ++ putBits 4 dest ++ [codeOfPrio prio] ++ putBool droppable)
  | .tqPeek now => opTqPeek :: putTicks now
  | .tqNext now => opTqNext :: putTicks now
  | .tqMark p now => opTqMark :: (putBuf p ++ putTicks now)
  | .tqRmkey dest seq => opTqRmkey :: (putBits 4 dest ++ [seq])
  | .tqClean now => opTqClean :: putTicks now
  | .rtAccept a p => opRtAccept :: (putBits 4 a ++ putBuf p)
  | .lsTick now => opLsTick :: putTicks now
  | .lsSend data type dest requireAck allowDrop =>
    opLsSend :: (putBuf data ++ putBits 3 type ++ [dest] ++ putBool requireAck ++ putBool allowDrop)
  | .lsReset => [opLsReset]
  | .cfgWr reg value => opCfgWr :: (putBits 3 reg.num ++ putNum 32 value)
  | .cfgRd reg => opCfgRd :: putBits 3 reg.num
  | .tPing h body => packHdr h Config.tPing ++ body
  | .tOta h body => packHdr h Config.tOta ++ body
  | .tData h body => packHdr h Config.tData ++ body
  | .tAck h body => packHdr h Config.tAck ++ body
  | .tId h body => packHdr h Config.tId ++ body
  | .hdrReserved5 h body => packHdr h 5 ++ body
  | .hdrReserved6 h body => packHdr h 6 ++ body
  | .hdrReserved7 h body => packHdr h 7 ++ body
  | .ackp acked => [acked]
  | .stInit now => codeOfState .init :: putTicks now
  | .stListening now => codeOfState .listening :: putTicks now
  | .stTransmitting now => codeOfState .transmitting :: putTicks now
  | .stEnterListen now => codeOfState .enterListen :: putTicks now
  | .stEnterTransmit now => codeOfState .enterTransmit :: putTicks now
  | .prioLow p dest droppable => codeOfPrio .low :: (putBuf p ++ putBits 4 dest ++ putBool droppable)
  | .prioHigh p dest droppable => codeOfPrio .high :: (putBuf p ++ putBits 4 dest ++ putBool droppable)
  | .prioHighest p dest droppable => codeOfPrio .highest :: (putBuf p ++ putBits 4 dest ++ putBool droppable)

/-! ## A row of the opcode table as a frame -/

/-- A frame: bytes and the place they are decoded for. On the spec's command port only `cmd` frames arrive; the other
formats let one row's word be presented on its own (log entry 2). `agent` names who issued it, since the port keeps the
order of each producer (R90; log entry 40). -/
structure Frame where
  fmt : Format
  bytes : List Byte
  agent : Nat
  deriving DecidableEq, Repr

/-- The format of a table word of `nbits` bits. Words of several rows coincide (a byte alone does not say whether it is
an opcode, a state code, a priority code or an acknowledged number): an opcode wins, then state `INIT`, then `ACKP`
(log entry 2). -/
def tableFormat (nbits w : Nat) : Option Format :=
  if nbits = 40 then some .hdr
  else if nbits = 8 then
    if BitVec.ofNat 8 w ∈ opcodes then some .cmd else if w = 0 then some .state else some .ackp
  else if nbits = 3 then some .state
  else if nbits = 2 then some .prio
  else none

/-- The bytes of a table word, every byte the operands add being 0. Header bit 39 is bit 7 of byte 0 (R111). -/
def tableBytes (nbits w : Nat) : List Byte :=
  if nbits = 40 then (putNum 5 w).reverse else BitVec.ofNat 8 w :: List.replicate 40 0

/-- A table word as a frame of an agent; a word of no format is presented to the command port. -/
def tableFrame (nbits w agent : Nat) : Frame := ⟨(tableFormat nbits w).getD .cmd, tableBytes nbits w, agent⟩

/-- The operation the decoder reads from a table word. -/
def decodeTableWord (nbits w : Nat) : Option Instr :=
  match tableFormat nbits w with
  | none => none
  | some fmt =>
    match decode fmt (tableBytes nbits w) with
    | .ok i => some i
    | .error _ => none

end Sys2Proof
end

