-- ==== Sys2Proof/Machine/State.lean ====
section
/-! DEFINITION. The state of the block (spec/10_state.md), its ports and inputs, the ways a step can stop, and reset. -/

namespace Sys2Proof.Machine

/-- The errors and warnings of R321, and `OK`. -/
inductive Code
  | ok
  | eShort
  | eHex
  | eXor
  | eType
  | eVersion
  | ePadlen
  | eKeylen
  | eAlign
  | eTooLong
  | eEmpty
  | eQfull
  | eQovf
  | eNoSendable
  | eTxFail
  | eReinitFail
  | eRetryExh
  | wDup
  | wMissing
  | wFragType
  | wFragSeq
  | eFragOvf
  | wRadioUnk
  | wNotForMe
  | wUnkSender
  | eCfgLock
  | eBadCfg
  | eBadCmd
  | wNoMatch
  | wAckEmpty
  deriving DecidableEq, Repr

/-- A transmit queue entry (R38). -/
structure Entry where
  pkt : Buf
  dest : Addr
  prio : Prio
  sentCount : Byte
  lastSent : Ticks
  timeout : Ticks
  maxRetry : Byte
  seqAssigned : Bool
  deriving DecidableEq, Repr

/-- A receive tracker (R40). -/
structure Tracker where
  lastValid : Bool
  last : Buf
  frags : List Buf
  deriving DecidableEq, Repr

/-- A tracker after reset (R45); `last` is unspecified there and empty here (DESIGN CHOICE, log entry 7). -/
def Tracker.empty : Tracker := ⟨false, [], []⟩

/-- The result data of a command (R36, R124). -/
inductive Data
  | none
  | pkt (p : Buf)
  | pkts (ps : List Buf)
  | byte (b : Byte)
  | bool (b : Bool)
  | str (s : Buf)
  | optPkt (p : Option Buf)
  | optMsg (m : Option (Buf × PType))
  | count (n : Nat)
  | value (v : BitVec 256)
  deriving DecidableEq, Repr

/-- What the block puts on its ports (R9 `emit`, R11): the result of a command (with its opcode), a log record, a radio
call, a registry call, a delivery. -/
inductive Out
  | result (op : Byte) (code : Code) (data : Data)
  | log (code : Code) (info : List Nat)
  | radioInitialize (sf : BitVec 3)
  | radioTransmit (w : Buf)
  | radioPollReceive
  | radioEnterPassiveListen
  | radioExitPassiveListen
  | regObserve (p : Buf) (q : Int)
  | regIdPacket (p : Buf)
  | regUnknownSender (a : Addr)
  | cbDeliver (payload : Buf) (len : Nat) (type : PType)
  deriving DecidableEq, Repr

/-- The atomic sub-steps of a tick (R87). -/
inductive Micro
  /-- `TQ.CLEAN` (R261). -/
  | clean (now : Ticks)
  /-- The first part of the handler `ST` selects (R261). -/
  | handler (now : Ticks)
  /-- `ask RADIO.pollReceive` (R265). -/
  | poll
  /-- Check, filter, observe and route a received packet (R267 to R269). -/
  | route (p : Buf)
  /-- `TQ.RMKEY` for a received acknowledgement (R269). -/
  | ackp (acked : Byte)
  /-- `RT.ACCEPT` and the delivery (R269). -/
  | accept (p : Buf)
  /-- `TQ.ENQ` of the acknowledgement of a packet (R270). -/
  | ack (p : Buf)
  /-- Leaving `LISTENING` (R266). -/
  | leave (now : Ticks)
  /-- `TQ.PEEK` and the tests after it (R271). -/
  | peek (now : Ticks)
  /-- `exitPassiveListen` if listening (R273). -/
  | stopListen
  /-- `TQ.NEXT` and `PKT.TOWIRE` (R275). -/
  | next (now : Ticks)
  /-- Removal of an entry that cannot be put on the wire (R275). -/
  | dropEntry (p : Buf)
  /-- `ask RADIO.transmit` (R275). -/
  | transmit (p w : Buf) (now : Ticks)
  /-- `ask RADIO.initialize` after a failure (R276). -/
  | reinit
  /-- `TQ.MARK` (R277). -/
  | mark (p : Buf) (now : Ticks)
  /-- The write of `ST` (R87 (5)). -/
  | setSt (st : SchedState)
  /-- The completion of `LS.TICK` on the command port (R36). -/
  | finish
  deriving DecidableEq, Repr

/-- An `LS.SEND` in progress: the fragments still to enqueue, their destination, and the agent that issued it (R279, R87,
R90). -/
structure SendJob where
  rest : List Buf
  dest : Addr
  issuer : Nat
  deriving DecidableEq, Repr

/-- What is known of the inbound packet being routed and is not in its bytes (log entry 28). -/
structure RxContext where
  /-- The signal quality of the RECEIVED event (R128). -/
  quality : Int
  /-- The sender of the acknowledgement being read (R269). -/
  sender : Addr
  deriving DecidableEq, Repr

/-- The queue lock (R43 (a)). -/
inductive Lock
  | free
  | held
  deriving DecidableEq, Repr

/-- The machine. Fields up to `sends` are the spec's; the rest are the model's own: parameters, ports, inputs. -/
structure State where
  /-- `ST` (R32). -/
  st : SchedState
  /-- `SEQ[0..15]` (R31). -/
  seq : Vector Byte 16
  /-- `T_LISTEN` (R33). -/
  tListen : Ticks
  /-- `JIT` (R33). -/
  jit : Ticks
  /-- `T_RX` (R33). -/
  tRx : Ticks
  /-- `T_TX` (R33). -/
  tTx : Ticks
  /-- `F_LISTEN` (R34). -/
  fListen : Bool
  /-- `F_FORCE` (R34). -/
  fForce : Bool
  /-- `F_TXSEEN` (R34). -/
  fTxSeen : Bool
  /-- `FLT` (R35). -/
  flt : Byte
  /-- `CFG_ADDR` (R37). -/
  cfgAddr : Byte
  /-- `CFG_SF` (R37). -/
  cfgSf : BitVec 3
  /-- `CFG_KEY_EN` (R37). -/
  cfgKeyEn : Bool
  /-- `CFG_KEY` (R37). -/
  cfgKey : BitVec 256
  /-- `CFG_TIMEOUT` (R37). -/
  cfgTimeout : Ticks
  /-- `CFG_MAXRETRY` (R37). -/
  cfgMaxRetry : Byte
  /-- `CFG_PROMISC` (R37). -/
  cfgPromisc : Bool
  /-- `TQ` (R38), head first. -/
  tq : List Entry
  /-- `RT[0..15]` (R40). -/
  rt : Vector Tracker 16
  /-- The queue lock (R43 (a)). -/
  lock : Lock
  /-- The sub-steps a running tick has still to make, next first; empty when no tick is in progress (R43 (b)). -/
  tick : List Micro
  /-- The `LS.SEND`s in progress (R87). -/
  sends : List SendJob
  /-- The implementation parameters (R6). -/
  params : Params
  /-- The frames waiting on the command port, oldest first (R11). -/
  port : List Frame
  /-- The agent whose operation the port ran last (R90; log entry 40). -/
  issuer : Nat
  /-- The agent that issued the tick in progress, when there is one (R90; log entry 40). -/
  tickIssuer : Nat
  /-- The answers `RADIO.pollReceive` will give. -/
  polls : List PollAnswer
  /-- The answers `RADIO.transmit` will give; `true` is SUCCESS. -/
  txAnswers : List Bool
  /-- The answers `RADIO.initialize` will give. -/
  initAnswers : List Bool
  /-- The answers `REG.observe` will give. -/
  knowns : List Bool
  /-- The raw jitter draws. -/
  draws : List Ticks
  /-- For each run of an operation made of sub-steps: after how many sub-steps it is interrupted, or `none` for a run to the
  end (R87). -/
  preempt : List (Option Nat)
  /-- Who moves next while an operation is in progress (R86). -/
  turns : List Turn
  /-- The inbound packet's context. -/
  rx : RxContext
  /-- The counter the free values are applied to. -/
  free : Nat
  /-- The counter the free choices of the interleaving are applied to. -/
  choices : Nat
  /-- The output trace, oldest first (R9). -/
  out : List Out
  deriving DecidableEq, Repr

/-- Why a step stops with a fault. -/
inductive Fault
  /-- A tick, or one of its handlers or its inbound procedure, is started while a tick is in progress: raised by
  `LS.TICK`, the `STATE` rows and the `HDR` rows. The spec makes it the host's duty never to do so (R260 "issue ticks one
  at a time (never two at once)", R87 "Two ticks never overlap") and gives it no effect. A step meets it only when an agent
  other than the one whose tick is in progress issues it. Safe (log entry 14). -/
  | tickOverlap
  deriving DecidableEq, Repr

/-- Why a step is refused. -/
inductive Refusal
  /-- An instruction without a meaning. No arm of `exec` answers it. Safe. -/
  | notModelled (mnemonic : String)
  /-- `LS.RESET` while a tick or an `LS.SEND` is in progress: raised by `LS.RESET`. "a model refuses such a step (it is
  not a behaviour of the block)" (R371, U19). Safe (log entry 15). -/
  | resetMidOperation
  deriving DecidableEq, Repr

/-- Power-on reset (R45, R370 (a)) of a block with given parameters. Registers the spec leaves unspecified are 0 or
empty here: DESIGN CHOICE, unsafe (log entry 7). Nothing waits on the ports. -/
def State.init (p : Params) : State where
  st := .init
  seq := Vector.replicate 16 0
  tListen := 0
  jit := 0
  tRx := 0
  tTx := 0
  fListen := false
  fForce := false
  fTxSeen := false
  flt := 0
  cfgAddr := Config.addrUnassigned
  cfgSf := 0
  cfgKeyEn := false
  cfgKey := 0
  cfgTimeout := p.resetTimeout
  cfgMaxRetry := p.resetMaxRetry
  cfgPromisc := false
  tq := []
  rt := Vector.replicate 16 Tracker.empty
  lock := .free
  tick := []
  sends := []
  params := p
  port := []
  issuer := 0
  tickIssuer := 0
  polls := []
  txAnswers := []
  initAnswers := []
  knowns := []
  draws := []
  preempt := []
  turns := []
  rx := ⟨0, 0⟩
  free := 0
  choices := 0
  out := []

/-- The machine right after power-on reset, with the default parameters of R6 (log entry 5). -/
def State.reset : State := State.init Params.default

end Sys2Proof.Machine
end

