-- ==== Sys2Proof/Machine/Flags.lean ====
section
/-! DEFINITION. Every flag and condition the block computes: the `FLT` bit of each error (spec/60_exceptions.md R321),
the time comparisons (spec/43_scheduler.md R285), the queue's predicates (spec/41_txqueue.md R191, R193, R199), the
destination filter (R268) and the configuration lock (R282). -/

namespace Sys2Proof.Machine

/-- The number of a code (R321). -/
def Code.num : Code → Nat
  | .ok => 0
  | .eShort => 1
  | .eHex => 2
  | .eXor => 3
  | .eType => 4
  | .eVersion => 5
  | .ePadlen => 6
  | .eKeylen => 7
  | .eAlign => 8
  | .eTooLong => 9
  | .eEmpty => 10
  | .eQfull => 11
  | .eQovf => 12
  | .eNoSendable => 13
  | .eTxFail => 14
  | .eReinitFail => 15
  | .eRetryExh => 16
  | .wDup => 17
  | .wMissing => 18
  | .wFragType => 19
  | .wFragSeq => 20
  | .eFragOvf => 21
  | .wRadioUnk => 22
  | .wNotForMe => 23
  | .wUnkSender => 24
  | .eCfgLock => 25
  | .eBadCfg => 26
  | .eBadCmd => 27
  | .wNoMatch => 28
  | .wAckEmpty => 29

/-- The sticky `FLT` bit an error sets when it is raised (R35, R321), as a mask; 0 when it has none. -/
def fltMask : Code → Byte
  | .eNoSendable => 0x01
  | .eQovf => 0x02
  | .eFragOvf => 0x04
  | .eTxFail => 0x08
  | .eRetryExh => 0x10
  | .eAlign => 0x20
  | .ok | .eShort | .eHex | .eXor | .eType | .eVersion | .ePadlen | .eKeylen | .eTooLong | .eEmpty | .eQfull
  | .eReinitFail | .wDup | .wMissing | .wFragType | .wFragSeq | .wRadioUnk | .wNotForMe | .wUnkSender | .eCfgLock
  | .eBadCfg | .eBadCmd | .wNoMatch | .wAckEmpty => 0

/-- `elapsed(now, t) = (now - t) mod 2^32` (R8, R331). -/
def elapsed (now t : Ticks) : Nat := (now - t).toNat

/-- The *sendable* predicate (R191). -/
def sendable (e : Entry) (now : Ticks) : Bool :=
  e.sentCount == 0 ||
    (decide (e.timeout.toNat ≤ elapsed now e.lastSent) && decide (e.sentCount.toNat ≤ e.maxRetry.toNat))

/-- The condition under which `TQ.CLEAN` drops an entry (R199). -/
def expired (e : Entry) (now : Ticks) : Bool :=
  decide (e.maxRetry.toNat < e.sentCount.toNat) && decide (e.timeout.toNat ≤ elapsed now e.lastSent)

/-- `exempt(p)` (R193). -/
def exempt (s : State) (p : Buf) : Bool := decide (typeOf p ∈ s.params.exemptTypes)

/-- `len(TQ) >= Q_CAP` (R193). -/
def capReached (s : State) : Bool := decide (s.params.qCap ≤ s.tq.length)

/-- `n > Q_DEPTH`, never with an infinite depth (R279; `len(TQ) >= Q_DEPTH` of R192 is `len(TQ) + 1 > Q_DEPTH`). -/
def exceedsDepth (s : State) (n : Nat) : Bool :=
  match s.params.qDepth with
  | some d => decide (d < n)
  | none => false

/-- The fragment buffer holds `FRAG_MAX` (R234), never with an infinite capacity. -/
def fragsFull (s : State) (t : Tracker) : Bool :=
  match s.params.fragMax with
  | some m => decide (m ≤ t.frags.length)
  | none => false

/-- `mlt = MIN_LISTEN(CFG_SF)`; a free value where the table has no entry (R372, U17; log entry 22). -/
def minListen (s : State) : Ticks :=
  match s.params.minListen[s.cfgSf.toNat]'s.cfgSf.isLt with
  | some t => t
  | none => Config.freeMinListen s.cfgSf

/-- `key = CFG_KEY if CFG_KEY_EN = 1 else absent` (43_scheduler.md). -/
def linkKey (s : State) : Option Buf := if s.cfgKeyEn then some (keyBytes s.cfgKey) else none

/-- `CFG_ADDR[3:0]` (R37). -/
def localAddr (s : State) : Addr := s.cfgAddr.extractLsb' 0 4

/-- The inter-packet gap has elapsed, or nothing was transmitted yet (R271). -/
def gapOk (s : State) (now : Ticks) : Bool := !s.fTxSeen || decide (s.params.minGap ≤ elapsed now s.tTx)

/-- The starvation guard's condition (R272): "exceeds" is strict. -/
def starved (s : State) (now : Ticks) : Bool :=
  decide ((minListen s).toNat + s.params.maxTxWindow < elapsed now s.tRx)

/-- The quiet period has elapsed (R274). -/
def quiet (s : State) (now : Ticks) : Bool := decide (s.params.quietPeriod ≤ elapsed now s.tRx)

/-- The listen window has elapsed (R266). -/
def listenOver (s : State) (now : Ticks) : Bool :=
  decide (2 * (minListen s).toNat + s.jit.toNat + s.params.minGap ≤ elapsed now s.tListen)

/-- The destination filter (R268). -/
def forMe (s : State) (p : Buf) : Bool :=
  s.cfgPromisc || dstOf p == localAddr s || dstOf p == Config.addrBroadcast

/-- Registers 1 to 6 may be written (R282): `ST = INIT and len(TQ) = 0`. -/
def cfgUnlocked (s : State) : Bool := s.st == .init && s.tq.isEmpty

/-- `value` is legal for the register (R37): it fits the width, a selector has a `MIN_LISTEN` entry, a retry budget is at
most 254. -/
def cfgLegal (s : State) (r : CfgReg) (v : Nat) : Bool :=
  r.fits v &&
    match r with
    | .sf => s.params.minListen[v]?.join.isSome
    | .maxRetry => decide (v ≤ 254)
    | .addr | .keyEn | .key | .timeout | .promisc | .flt => true

end Sys2Proof.Machine
end

