-- ==== Sys2Proof/Machine/Ops.lean ====
section
/-! DEFINITION. The shared operations: outputs, `raise` (the block's only form of taking an exception, spec/60_exceptions.md
R326; there is no return from one, R327), asks of the outside, the queue lock, the codec with its refusals
(spec/40_codec.md), the queue primitives (spec/41_txqueue.md) and the receive tracker (spec/42_rxtracker.md). -/

namespace Sys2Proof.Machine

/-- The outcome of an operation. -/
abbrev Result := Host.Outcome State Fault Refusal

/-! ## Outputs and errors -/

/-- `emit X(args)` (R9). -/
def emit (o : Out) (s : State) : State := { s with out := s.out ++ [o] }

/-- A log record (R339). -/
def logRec (c : Code) (info : List Nat) (s : State) : State := emit (.log c info) s

/-- `raise E(info)` (R9, R326): the log record and the sticky `FLT` bit of the error; nothing else. -/
def raise (c : Code) (info : List Nat) (s : State) : State :=
  { logRec c info s with flt := s.flt ||| fltMask c }

/-- The completion of a command on the command port: result code and data (R36). -/
def finish (op : Byte) (c : Code) (d : Data) (s : State) : State := emit (.result op c d) s

/-- A command refused with `E_BADCMD` (R125 (e)): no state changes. -/
def badCmd (op : Byte) (s : State) : State := finish op .eBadCmd .none s

/-! ## Asks and draws (R9): the next answer of the script, or a free value (log entry 8) -/

/-- `ask RADIO.pollReceive()` (R265, R336). -/
def askPoll (s : State) : PollAnswer × State :=
  match s.polls with
  | a :: r => (a, emit .radioPollReceive { s with polls := r })
  | [] => (Config.freePoll s.free, emit .radioPollReceive { s with free := s.free + 1 })

/-- `ask RADIO.transmit(w)` (R275, R336); `true` is SUCCESS. -/
def askTransmit (w : Buf) (s : State) : Bool × State :=
  match s.txAnswers with
  | a :: r => (a, emit (.radioTransmit w) { s with txAnswers := r })
  | [] => (Config.freeTransmit s.free, emit (.radioTransmit w) { s with free := s.free + 1 })

/-- `ask RADIO.initialize(CFG_SF)` (R276, R336). -/
def askInitialize (s : State) : Bool × State :=
  match s.initAnswers with
  | a :: r => (a, emit (.radioInitialize s.cfgSf) { s with initAnswers := r })
  | [] => (Config.freeInit s.free, emit (.radioInitialize s.cfgSf) { s with free := s.free + 1 })

/-- `ask REG.observe(p, q)` (R267, R337). -/
def askObserve (p : Buf) (q : Int) (s : State) : Bool × State :=
  match s.knowns with
  | a :: r => (a, emit (.regObserve p q) { s with knowns := r })
  | [] => (Config.freeKnown s.free, emit (.regObserve p q) { s with free := s.free + 1 })

/-- The raw draw of R264. -/
def rawDraw (s : State) : Ticks × State :=
  match s.draws with
  | j :: r => (j, { s with draws := r })
  | [] => (Config.freeDraw s.free, { s with free := s.free + 1 })

/-- A jitter value in `0..mlt` made of a raw draw; every value of the range is a raw draw's (R264; log entry 9). -/
def jitterOf (mlt raw : Ticks) : Ticks := BitVec.ofNat 32 (raw.toNat % (mlt.toNat + 1))

/-- Where the run of sub-steps that now starts is interrupted (R87): after `n` sub-steps beyond the first it may make, or not
at all (`none`). The script says, and when it is exhausted a free value does (U16; log entry 12). -/
def takeCut (s : State) : Option Nat × State :=
  match s.preempt with
  | c :: r => (c, { s with preempt := r })
  | [] => (Config.freeCut s.choices, { s with choices := s.choices + 1 })

/-! ## The queue lock (R43 (a), R86) -/

/-- The lock is free again when an atomic operation ends (R43 (a)). -/
def release (s : State) : State := { s with lock := .free }

/-- `atomic { f }` (R9): the lock is taken, `f` runs, the lock is released. Taking it leaves no trace of its own: nothing in
`f` reads the lock, and no state between two sub-steps has it held (R86; log entry 26). -/
def atomic {α : Type} (f : State → α × State) (s : State) : α × State := ((f s).1, release (f s).2)

/-! ## Indexed state -/

/-- `SEQ[d]` (R31). -/
def seqAt (s : State) (d : Addr) : Byte := s.seq[d.toNat]'(d.isLt)

/-- `SEQ[d] <- v` (R31). -/
def setSeq (d : Addr) (v : Byte) (s : State) : State := { s with seq := s.seq.set d.toNat v d.isLt }

/-- `RT[a]` (R40). -/
def trackerAt (s : State) (a : Addr) : Tracker := s.rt[a.toNat]'(a.isLt)

/-- `RT[a] <- t` (R40). -/
def setTracker (a : Addr) (t : Tracker) (s : State) : State := { s with rt := s.rt.set a.toNat t a.isLt }

/-- The first element that satisfies `f`, with what stands before and after it (R190 "scans in order"). -/
def splitFirst {α : Type} (f : α → Bool) : List α → Option (List α × α × List α)
  | [] => none
  | x :: xs =>
    if f x then some ([], x, xs)
    else
      match splitFirst f xs with
      | some (before, y, after) => some (x :: before, y, after)
      | none => none

/-! ## The codec with its refusals (R152 to R159) -/

/-- Why a codec operation refuses: the code it returns, and what a log record of it carries (R321). -/
structure Refuse where
  code : Code
  info : List Nat
  deriving DecidableEq, Repr

/-- `PKT.ENCODE` (R152). -/
def encodePkt (s : State) (payload : Buf) (type : PType) (qos split : Bool) (src dst : Addr) : Except Refuse Buf :=
  if s.params.maxPayload < payload.length then .error ⟨.eTooLong, [payload.length]⟩
  else .ok (buildPkt s.params.versionCur s.cfgKeyEn payload type qos split src dst)

/-- The packet result of a codec operation: the empty packet where it refuses (R41). -/
def pktOrEmpty : Except Refuse Buf → Buf
  | .ok p => p
  | .error _ => []

/-- The result code of a codec operation. -/
def codeOf {α : Type} : Except Refuse α → Code
  | .ok _ => .ok
  | .error r => r.code

/-- `PKT.CSUM` (R153). -/
def checksum (p : Buf) : Except Refuse Byte :=
  if p.length < Config.hdrLen then .error ⟨.eShort, [p.length]⟩ else .ok (csumVal p)

/-- `PKT.CHECK` (R155): why the packet fails, in the order short, XOR, type, version (R324 (b)). -/
def checkPkt (s : State) (p : Buf) : Except Refuse Unit :=
  if p.length < Config.hdrLen then .error ⟨.eShort, [p.length]⟩
  else if xorAll p ≠ 0 then .error ⟨.eXor, [(xorAll p).toNat]⟩
  else if typeOf p ∉ s.params.knownTypes then .error ⟨.eType, [(typeOf p).toNat]⟩
  else if versionOf p ∉ s.params.knownVersions then .error ⟨.eVersion, [(versionOf p).toNat]⟩
  else .ok ()

/-- `PKT.TOWIRE` (R156). -/
def toWire (p : Buf) (key : Option Buf) : Except Refuse Buf :=
  if p.length < Config.hdrLen then .error ⟨.eShort, [p.length]⟩
  else
    match key with
    | none => .ok (hex p)
    | some k =>
      if k.length ≠ Config.keyLen then .error ⟨.eKeylen, [k.length]⟩
      else if p.length % Config.blk ≠ 0 then .error ⟨.eAlign, [p.length]⟩
      else .ok (hex (enc k p))

/-- The two tests that end `PKT.FROMWIRE` (R157): short, then padding length. -/
def acceptBytes (b : Buf) : Except Refuse Buf :=
  if b.length < Config.hdrLen then .error ⟨.eShort, [b.length]⟩
  else if b.length - Config.hdrLen < (padlenOf b).toNat then .error ⟨.ePadlen, [(padlenOf b).toNat, b.length]⟩
  else .ok b

/-- `PKT.FROMWIRE` (R157), with the order of R324 (a). -/
def fromWire (w : Buf) (key : Option Buf) : Except Refuse Buf :=
  match unhex w with
  | none => .error ⟨.eHex, [w.length]⟩
  | some b =>
    match key with
    | none => acceptBytes b
    | some k =>
      if k.length ≠ Config.keyLen then .error ⟨.eKeylen, [k.length]⟩
      else if b.length % Config.blk ≠ 0 then .error ⟨.eAlign, [b.length]⟩
      else acceptBytes (dec k b)

/-- `PKT.FRAG` (R159): every fragment but the last is split. -/
def fragPkts (s : State) (data : Buf) (type : PType) (qos : Bool) (src dst : Addr) : List Buf :=
  (chunksOf s.params.maxPayload data).mapIdx fun i c =>
    pktOrEmpty (encodePkt s c type qos (decide (i + 1 < (chunksOf s.params.maxPayload data).length)) src dst)

/-! ## The transmit queue (R190 to R199) -/

/-- Insert before the first entry of strictly lower priority (R192). -/
def insertEntry (e : Entry) : List Entry → List Entry
  | [] => [e]
  | x :: xs => if x.prio.num < e.prio.num then e :: x :: xs else x :: insertEntry e xs

/-- The entry `TQ.ENQ` makes (R192); its `last_sent` is a free value (log entry 21). -/
def newEntry (p : Buf) (dest : Addr) (prio : Prio) (s : State) : Entry where
  pkt := p
  dest := dest
  prio := prio
  sentCount := 0
  lastSent := Config.freeLastSent s.free
  timeout := s.cfgTimeout
  maxRetry := s.cfgMaxRetry
  seqAssigned := false

/-- `TQ.ENQ` (R192), with the order short, cap, depth (R324 (e)). A packet longer than the `MTU` bytes an entry holds (R38)
is an operand out of range, refused before them (R125 (e)): DEDUCED, log entry 38. -/
def enqueue (p : Buf) (dest : Addr) (prio : Prio) (droppable : Bool) : State → Code × State :=
  atomic fun s =>
    if s.params.mtu < p.length then (.eBadCmd, s)
    else if p.length < Config.hdrLen then (.eShort, s)
    else if droppable && !exempt s p && capReached s then (.eQfull, s)
    else if exceedsDepth s (s.tq.length + 1) then (.eQovf, raise .eQovf [s.tq.length] s)
    else (.ok, { s with tq := insertEntry (newEntry p dest prio s) s.tq, free := s.free + 1 })

/-- `TQ.PEEK` (R194). -/
def peek (now : Ticks) : State → Bool × State :=
  atomic fun s => (s.tq.any fun e => sendable e now, s)

/-- The packet after its first dispatch with sequence number `n` (R196): sequence byte written, then sealed. -/
def stamp (p : Buf) (n : Byte) : Buf := sealPkt (memWrite p 4 n)

/-- First dispatch of an entry (R196): the entry with its number, and the counter advanced. -/
def dispatch (e : Entry) (s : State) : Entry × State :=
  if e.seqAssigned then (e, s)
  else
    ({ e with pkt := stamp e.pkt (seqAt s e.dest), seqAssigned := true },
      setSeq e.dest (seqAt s e.dest + 1) s)

/-- `TQ.NEXT` (R195, R196). -/
def nextSendable (now : Ticks) : State → Option Buf × State :=
  atomic fun s =>
    match splitFirst (fun e => sendable e now) s.tq with
    | none => (none, s)
    | some (before, e, after) =>
      (some (dispatch e s).1.pkt, { (dispatch e s).2 with tq := before ++ (dispatch e s).1 :: after })

/-- The entry a transmitted packet belongs to (R197, R275). -/
def isDispatched (p : Buf) (e : Entry) : Bool := e.seqAssigned && e.pkt == p

/-- `sent_count + 1` (R197), which is "at most `max_retry + 1 <= 255`" (R197, R39 (d)); beyond the bound the count stays at
it, which no operation can tell from a higher one (DEDUCED, log entry 20; `bumpCount_spec`). -/
def bumpCount (e : Entry) : Byte := BitVec.ofNat 8 (min (e.sentCount.toNat + 1) (min (e.maxRetry.toNat + 1) 255))

/-- `TQ.MARK` (R197). -/
def markSent (p : Buf) (now : Ticks) : State → Code × State :=
  atomic fun s =>
    match splitFirst (isDispatched p) s.tq with
    | none => (.wNoMatch, raise .wNoMatch [(dstOf p).toNat, (seqOf p).toNat] s)
    | some (before, e, after) =>
      if qosOf e.pkt then
        (.ok, { s with tq := before ++ { e with sentCount := bumpCount e, lastSent := now } :: after })
      else (.ok, { s with tq := before ++ after })

/-- The entry an acknowledged number belongs to (R198). -/
def hasKey (dest : Addr) (seq : Byte) (e : Entry) : Bool := e.seqAssigned && e.dest == dest && seqOf e.pkt == seq

/-- `TQ.RMKEY` (R198). -/
def removeByKey (dest : Addr) (seq : Byte) : State → Code × State :=
  atomic fun s =>
    match splitFirst (hasKey dest seq) s.tq with
    | none => (.wNoMatch, raise .wNoMatch [dest.toNat, seq.toNat] s)
    | some (before, _, after) => (.ok, { s with tq := before ++ after })

/-- One `E_RETRYEXH` per dropped entry (R199). In which order is open; head first is a DESIGN CHOICE (log entry 37). -/
def raiseDrops (es : List Entry) (s : State) : State :=
  es.foldl (fun s e => raise .eRetryExh [e.dest.toNat, (seqOf e.pkt).toNat] s) s

/-- `TQ.CLEAN` (R199). -/
def cleanUp (now : Ticks) : State → Nat × State :=
  atomic fun s =>
    ((s.tq.filter fun e => expired e now).length,
      raiseDrops (s.tq.filter fun e => expired e now) { s with tq := s.tq.filter fun e => !expired e now })

/-- Removal of an entry that cannot be put on the wire (R275). -/
def dropUnsent (p : Buf) : State → Unit × State :=
  atomic fun s =>
    match splitFirst (isDispatched p) s.tq with
    | none => ((), s)
    | some (before, _, after) => ((), { s with tq := before ++ after })

/-! ## The receive tracker (R231 to R238) -/

/-- Consecutive sequence numbers modulo 256 (R235). -/
def contiguous : List Buf → Bool
  | [] => true
  | [_] => true
  | p :: q :: rest => seqOf q == seqOf p + 1 && contiguous (q :: rest)

/-- The missing-packet warning (R233), before the tracker is written. -/
def warnMissing (t : Tracker) (p : Buf) (s : State) : State :=
  if t.lastValid && seqOf p != seqOf t.last + 1 then
    raise .wMissing [(srcOf p).toNat, (seqOf t.last + 1).toNat, (seqOf p).toNat] s
  else s

/-- The two warnings of a final fragment (R235), `W_FRAGTYPE` before `W_FRAGSEQ` (R324 (d)). -/
def warnRun (fs : List Buf) (p : Buf) (ty : PType) (s : State) : State :=
  let s := if fs.any fun f => typeOf f != ty then raise .wFragType [(srcOf p).toNat] s else s
  if contiguous fs then s else raise .wFragSeq [(srcOf p).toNat] s

/-- What `RT.ACCEPT` answers: its result code (R36, R326) and the message it returns. -/
structure Accepted where
  code : Code
  msg : Option (Buf × PType)
  deriving DecidableEq, Repr

/-- What the tracker does with a packet that is not a duplicate (R231, R234 to R236, R238); `t` has its `last` written. The
overflow is an error of class 2 (R321), so its code is the result (R326); the warnings leave it `OK`. A message is the up to
`FRAG_MAX` fragments held and the final one, whatever their lengths: DEDUCED against R241's `FRAG_MAX * MAX_PAYLOAD` (log
entry 39). -/
def acceptNew (a : Addr) (t : Tracker) (p : Buf) (s : State) : Accepted × State :=
  if splitOf p then
    if fragsFull s t then
      (⟨.eFragOvf, none⟩, raise .eFragOvf [(srcOf p).toNat] (setTracker a { t with frags := [] } s))
    else (⟨.ok, none⟩, setTracker a { t with frags := t.frags ++ [p] } s)
  else
    match t.frags with
    | [] => (⟨.ok, some (payloadOf p, typeOf p)⟩, setTracker a t s)
    | f :: _ =>
      (⟨.ok, some ((t.frags ++ [p]).flatMap payloadOf, typeOf f)⟩,
        warnRun (t.frags ++ [p]) p (typeOf f) (setTracker a { t with frags := [] } s))

/-- `RT.ACCEPT` (R231): duplicate, missing-warning, then the new packet. -/
def acceptPkt (a : Addr) (p : Buf) : State → Accepted × State :=
  atomic fun s =>
    let t := trackerAt s a
    if t.lastValid && p == t.last then (⟨.ok, none⟩, raise .wDup [(srcOf p).toNat, (seqOf p).toNat] s)
    else acceptNew a { t with last := p, lastValid := true } p (warnMissing t p s)

end Sys2Proof.Machine
end

