-- ==== Sys2Proof/Machine/Codec.lean ====
section
/-! DEFINITION. The packet codec operations (spec/40_codec.md). All are pure: the state changes only by the result on the
command port (R83 (d)). -/

namespace Sys2Proof.Machine

/-- `PKT.ENCODE` (R152). -/
def execPktEncode (payload : Buf) (type : PType) (qos split : Bool) (src dst : Addr) (s : State) : Result :=
  let r := encodePkt s payload type qos split src dst
  .next (finish opPktEncode (codeOf r) (.pkt (pktOrEmpty r)) s)

/-- `PKT.CSUM` (R153): 0 with `E_SHORT`. -/
def execPktCsum (p : Buf) (s : State) : Result :=
  match checksum p with
  | .ok c => .next (finish opPktCsum .ok (.byte c) s)
  | .error r => .next (finish opPktCsum r.code (.byte 0) s)

/-- `PKT.CHECK` (R155). -/
def execPktCheck (p : Buf) (s : State) : Result :=
  match checkPkt s p with
  | .ok _ => .next (finish opPktCheck .ok (.bool true) s)
  | .error r => .next (finish opPktCheck r.code (.bool false) s)

/-- `PKT.TOWIRE` (R156). -/
def execPktToWire (p : Buf) (key : Option Buf) (s : State) : Result :=
  let r := toWire p key
  .next (finish opPktToWire (codeOf r) (.str (pktOrEmpty r)) s)

/-- `PKT.FROMWIRE` (R157). -/
def execPktFromWire (w : Buf) (key : Option Buf) (s : State) : Result :=
  let r := fromWire w key
  .next (finish opPktFromWire (codeOf r) (.pkt (pktOrEmpty r)) s)

/-- `PKT.FRAG` (R159). -/
def execPktFrag (data : Buf) (type : PType) (qos : Bool) (src dst : Addr) (s : State) : Result :=
  if data.isEmpty then .next (finish opPktFrag .eEmpty (.pkts []) s)
  else .next (finish opPktFrag .ok (.pkts (fragPkts s data type qos src dst)) s)

end Sys2Proof.Machine
end

