-- ==== Sys2Proof/Machine/Scheduler.lean ====
section
/-! DEFINITION. The link scheduler (spec/43_scheduler.md): the sub-steps of a tick (spec/20_memory.md R87), how a tick runs
through them, `LS.TICK`, and the state handlers. A sub-step answers the new state and the sub-steps that follow it. -/

namespace Sys2Proof.Machine

/-! ## The handlers (R262 to R275) -/

/-- Handler `ENTER_LISTEN` (R263, R264). -/
def enterListen (now : Ticks) (s : State) : State × List Micro :=
  let s := if s.fListen then s else { emit .radioEnterPassiveListen s with fListen := true }
  let r := rawDraw s
  ({ r.2 with tListen := now, jit := jitterOf (minListen r.2) r.1, fForce := false }, [.setSt .listening])

/-- Handler `ENTER_TRANSMIT` (R271): the starvation guard (R272) before the peek. -/
def enterTransmit (now : Ticks) (s : State) : State × List Micro :=
  if starved s now then (s, [.setSt (if gapOk s now then .enterListen else .enterTransmit)])
  else (s, [.peek now])

/-- The first part of the handler of a state, up to its first ask or queue operation (R261, R87 (2)). -/
def handlerOf (st : SchedState) (now : Ticks) (s : State) : State × List Micro :=
  match st with
  | .init => (s, [.setSt .enterListen])
  | .enterListen => enterListen now s
  | .listening => ({ s with tRx := now }, [.poll, .leave now])
  | .enterTransmit => enterTransmit now s
  | .transmitting => (s, [.next now])

/-! ## Inbound (R265, R267 to R270) -/

/-- Drop an inbound packet with the code of the test that failed (R267). No `FLT` bit is set: the only code here that has
one is `E_ALIGN`, and it has it "only when raised by the handler" `TRANSMITTING` (R321; log entry 17). -/
def dropInbound (r : Refuse) (s : State) : State := logRec r.code r.info s

/-- `ask RADIO.pollReceive()` and what follows up to the routing of a packet (R265, R267). That its records and the re-arming
fall in the ask's sub-step is a DESIGN CHOICE (log entry 31). -/
def pollRadio (s : State) : State × List Micro :=
  let r := askPoll s
  match r.1 with
  | .received w q =>
    match fromWire w (linkKey r.2) with
    | .ok p => ({ r.2 with rx := { r.2.rx with quality := q } }, [.route p])
    | .error e => (dropInbound e { r.2 with rx := { r.2.rx with quality := q } }, [])
  | .timeout => (emit .radioEnterPassiveListen r.2, [])
  | .unknown => (emit .radioEnterPassiveListen (raise .wRadioUnk [] r.2), [])
  | .noEvent => (r.2, [])

/-- The acknowledgement sub-step, when the packet demands one (R270). -/
def ackSteps (p : Buf) : List Micro := if qosOf p then [.ack p] else []

/-- Routing by type of a packet that passed check and filter (R269), `known` being the registry's answer. -/
def routeByType (known : Bool) (p : Buf) (s : State) : State × List Micro :=
  if typeOf p = s.params.tId then (emit (.regIdPacket p) s, ackSteps p)
  else if !known then
    (emit (.regUnknownSender (srcOf p)) (raise .wUnkSender [(srcOf p).toNat] s), [])
  else if typeOf p = s.params.tAck then
    match payloadOf p with
    | [] => (raise .wAckEmpty [(srcOf p).toNat] s, ackSteps p)
    | n :: _ => ({ s with rx := { s.rx with sender := srcOf p } }, .ackp n :: ackSteps p)
  else (s, .accept p :: ackSteps p)

/-- `RX.ROUTE` from the check on (R267, R268): a packet dropped here changes no state beyond the log record. -/
def routePkt (p : Buf) (s : State) : State × List Micro :=
  match checkPkt s p with
  | .error r => (dropInbound r s, [])
  | .ok _ =>
    if forMe s p then
      let r := askObserve p s.rx.quality s
      routeByType r.1 p r.2
    else (raise .wNotForMe [(dstOf p).toNat] s, [])

/-- `RT.ACCEPT` and the delivery of what it returns (R269, R338). -/
def deliverPkt (p : Buf) (s : State) : State :=
  let r := acceptPkt (srcOf p) p s
  match r.1.msg with
  | some (pl, ty) => emit (.cbDeliver pl pl.length ty) r.2
  | none => r.2

/-- The acknowledgement of a packet (R270, R122, `TQ.ACK` of R126). -/
def enqueueAck (p : Buf) (s : State) : State :=
  let a := pktOrEmpty (encodePkt s [seqOf p] s.params.tAck false false (localAddr s) (srcOf p))
  let r := enqueue a (srcOf p) .highest false s
  if r.1 = .ok then { r.2 with fForce := true } else r.2

/-- Leaving `LISTENING` (R266): forced before timed (R324 (g)). -/
def leaveListening (now : Ticks) (s : State) : State :=
  if s.fForce then { s with fForce := false, st := .enterTransmit }
  else if listenOver s now then { s with st := .enterTransmit }
  else { s with st := .listening }

/-! ## Outbound (R271 to R277) -/

/-- `TQ.PEEK` and the tests that follow it (R271, R273, R274). -/
def peekAndDecide (now : Ticks) (s : State) : State × List Micro :=
  let r := peek now s
  if r.1 && gapOk r.2 now then (r.2, [.stopListen, .setSt .transmitting])
  else if !r.1 && quiet r.2 now then (r.2, [.setSt .enterListen])
  else (r.2, [.setSt .enterTransmit])

/-- Stop listening (R273). -/
def stopListening (s : State) : State :=
  if s.fListen then { emit .radioExitPassiveListen s with fListen := false } else s

/-- `TQ.NEXT` and `PKT.TOWIRE` (R275). That `E_NOSENDABLE` and `E_ALIGN` are raised in this sub-step, and not in one of their own,
is a DESIGN CHOICE: R87 does not say (log entry 31). -/
def nextToSend (now : Ticks) (s : State) : State × List Micro :=
  let r := nextSendable now s
  match r.1 with
  | none => (raise .eNoSendable [] r.2, [.setSt .enterTransmit])
  | some p =>
    match toWire p (linkKey r.2) with
    | .ok w => (r.2, [.transmit p w now])
    | .error _ => (raise .eAlign [p.length] r.2, [.dropEntry p, .setSt .enterTransmit])

/-- `ask RADIO.transmit(w)` and the branch on its answer (R275 to R277). That `E_TXFAIL` is raised in the ask's sub-step is a
DESIGN CHOICE (log entry 31). -/
def transmitPkt (p w : Buf) (now : Ticks) (s : State) : State × List Micro :=
  let r := askTransmit w s
  let s := { r.2 with tTx := now, fTxSeen := true }
  if r.1 then (s, [.mark p now, .setSt (if qosOf p then .enterListen else .enterTransmit)])
  else (raise .eTxFail [(dstOf p).toNat, (seqOf p).toNat] s, [.reinit, .setSt .enterTransmit])

/-- `ask RADIO.initialize(CFG_SF)` after a failure (R276). That `E_REINITFAIL` is raised in the ask's sub-step is a DESIGN CHOICE
(log entry 31). -/
def reinitRadio (s : State) : State :=
  let r := askInitialize s
  if r.1 then r.2 else raise .eReinitFail [] r.2

/-! ## Running a tick -/

/-- One atomic sub-step (R87): the new state and the sub-steps it adds before the remaining ones. That a tick completes with
`OK` also when its handler raised an error of class 2 or C is a DESIGN CHOICE: R36 and R261 name no code (log entry 35). -/
def microStep (m : Micro) (s : State) : State × List Micro :=
  match m with
  | .clean now => ((cleanUp now s).2, [])
  | .handler now => handlerOf s.st now s
  | .poll => pollRadio s
  | .route p => routePkt p s
  | .ackp acked => ((removeByKey s.rx.sender acked s).2, [])
  | .accept p => (deliverPkt p s, [])
  | .ack p => (enqueueAck p s, [])
  | .leave now => (leaveListening now s, [])
  | .peek now => peekAndDecide now s
  | .stopListen => (stopListening s, [])
  | .next now => nextToSend now s
  | .dropEntry p => ((dropUnsent p s).2, [])
  | .transmit p w now => transmitPkt p w now s
  | .reinit => (reinitRadio s, [])
  | .mark p now => ((markSent p now s).2, [])
  | .setSt st => ({ s with st := st }, [])
  | .finish => (finish opLsTick .ok .none s, [])

/-- Make at most `n` sub-steps of a tick (R87); what is left of it stays in `tick`. -/
def drive : Nat → List Micro → State → State
  | _, [], s => { s with tick := [] }
  | 0, m :: ms, s => { s with tick := m :: ms }
  | n + 1, m :: ms, s => drive n ((microStep m s).2 ++ ms) (microStep m s).1

/-- More sub-steps than any tick makes (the longest makes eight). -/
def tickBound : Nat := 16

/-- How many sub-steps a run makes: at least one, and all of them when nothing interrupts it. -/
def runLength : Option Nat → Nat
  | none => tickBound
  | some n => n + 1

/-- Run sub-steps until none is left or the tick is interrupted (R87). -/
def runTick (ms : List Micro) (s : State) : State := drive (runLength (takeCut s).1) ms (takeCut s).2

/-- The scheduler starts the sub-steps `ms`; there must be no tick in progress (log entry 14). -/
def startTick (ms : List Micro) (s : State) : Result :=
  if s.tick.isEmpty then .next (runTick ms s) else .fault .tickOverlap

/-- The tick in progress goes on (R87). -/
def resumeTick (s : State) : State := runTick s.tick { s with tick := [] }

/-- `LS.TICK` (R261): `TQ.CLEAN`, the handler of `ST`, and the completion. -/
def execLsTick (now : Ticks) (s : State) : Result := startTick [.clean now, .handler now, .finish] s

/-- `ST` holds a state and its handler runs (R261, R32). -/
def runHandler (st : SchedState) (now : Ticks) (s : State) : Result := startTick [.handler now] { s with st := st }

/-- `ST.INIT` (R262). -/
def execStInit (now : Ticks) (s : State) : Result := runHandler .init now s

/-- `ST.LISTENING` (R265, R266). -/
def execStListening (now : Ticks) (s : State) : Result := runHandler .listening now s

/-- `ST.TRANSMITTING` (R275 to R277). -/
def execStTransmitting (now : Ticks) (s : State) : Result := runHandler .transmitting now s

/-- `ST.ENTER_LISTEN` (R263, R264). -/
def execStEnterListen (now : Ticks) (s : State) : Result := runHandler .enterListen now s

/-- `ST.ENTER_TRANSMIT` (R271 to R274). -/
def execStEnterTransmit (now : Ticks) (s : State) : Result := runHandler .enterTransmit now s

end Sys2Proof.Machine
end

