-- ==== Sys2Proof/Machine/Header.lean ====
section
/-! DEFINITION. The packet headers (spec/30_encoding.md R114, R125): a received packet with this header is checked,
filtered, observed, routed by its type and acknowledged (spec/43_scheduler.md R267 to R270). The row fixes the type field of
the packet; what the code means (`T_PING` to `T_ID`, or unknown) the parameters say, and with the decided codes of D4 it is
what the row's name says (log entry 6). -/

namespace Sys2Proof.Machine

/-- A received packet enters `RX.ROUTE` after `PKT.FROMWIRE` (R267). -/
def routeReceived (p : Buf) (s : State) : Result := startTick [.route p] s

/-- Type code 0, with the decided codes `T_PING` (R269): to the receive tracker, then the callback. -/
def execTPing (h : Hdr) (body : Buf) (s : State) : Result := routeReceived (packHdr h Config.tPing ++ body) s

/-- Type code 1, with the decided codes `T_OTA` (R269): to the receive tracker, then the callback. -/
def execTOta (h : Hdr) (body : Buf) (s : State) : Result := routeReceived (packHdr h Config.tOta ++ body) s

/-- Type code 2, with the decided codes `T_DATA` (R269): to the receive tracker, then the callback. -/
def execTData (h : Hdr) (body : Buf) (s : State) : Result := routeReceived (packHdr h Config.tData ++ body) s

/-- Type code 3, with the decided codes `T_ACK` (R269): retires a queue entry. -/
def execTAck (h : Hdr) (body : Buf) (s : State) : Result := routeReceived (packHdr h Config.tAck ++ body) s

/-- Type code 4, with the decided codes `T_ID` (R269): to the registry. -/
def execTId (h : Hdr) (body : Buf) (s : State) : Result := routeReceived (packHdr h Config.tId ++ body) s

/-- Type code 5, with the decided codes unknown (R125 (a)): `PKT.CHECK` fails. -/
def execHdrReserved5 (h : Hdr) (body : Buf) (s : State) : Result := routeReceived (packHdr h 5 ++ body) s

/-- Type code 6, with the decided codes unknown (R125 (a)): `PKT.CHECK` fails. -/
def execHdrReserved6 (h : Hdr) (body : Buf) (s : State) : Result := routeReceived (packHdr h 6 ++ body) s

/-- Type code 7, with the decided codes unknown (R125 (a)): `PKT.CHECK` fails. -/
def execHdrReserved7 (h : Hdr) (body : Buf) (s : State) : Result := routeReceived (packHdr h 7 ++ body) s

end Sys2Proof.Machine
end

