-- ==== Sys2Proof/Machine/Queue.lean ====
section
/-! DEFINITION. The transmit queue operations (spec/41_txqueue.md) on the command port, and `TQ.ENQ` by priority code
(R123). -/

namespace Sys2Proof.Machine

/-- An enqueue from the command port: its result is a code (R192, `90_conflicts.md` C12). -/
def enqueueCmd (p : Buf) (dest : Addr) (prio : Prio) (droppable : Bool) (s : State) : Result :=
  let r := enqueue p dest prio droppable s
  .next (finish opTqEnq r.1 .none r.2)

/-- `TQ.ENQ` (R192). -/
def execTqEnq (p : Buf) (dest : Addr) (prio : Prio) (droppable : Bool) (s : State) : Result :=
  enqueueCmd p dest prio droppable s

/-- `TQ.PEEK` (R194). -/
def execTqPeek (now : Ticks) (s : State) : Result :=
  let r := peek now s
  .next (finish opTqPeek .ok (.bool r.1) r.2)

/-- `TQ.NEXT` (R195, R196). -/
def execTqNext (now : Ticks) (s : State) : Result :=
  let r := nextSendable now s
  .next (finish opTqNext .ok (.optPkt r.1) r.2)

/-- `TQ.MARK` (R197). -/
def execTqMark (p : Buf) (now : Ticks) (s : State) : Result :=
  let r := markSent p now s
  .next (finish opTqMark r.1 .none r.2)

/-- `TQ.RMKEY` (R198). -/
def execTqRmkey (dest : Addr) (seq : Byte) (s : State) : Result :=
  let r := removeByKey dest seq s
  .next (finish opTqRmkey r.1 .none r.2)

/-- `TQ.CLEAN` (R199). -/
def execTqClean (now : Ticks) (s : State) : Result :=
  let r := cleanUp now s
  .next (finish opTqClean .ok (.count r.1) r.2)

/-- `PRIO.LOW` (R123): `TQ.ENQ` at `LOW`. -/
def execPrioLow (p : Buf) (dest : Addr) (droppable : Bool) (s : State) : Result :=
  enqueueCmd p dest .low droppable s

/-- `PRIO.HIGH` (R123): `TQ.ENQ` at `HIGH`. -/
def execPrioHigh (p : Buf) (dest : Addr) (droppable : Bool) (s : State) : Result :=
  enqueueCmd p dest .high droppable s

/-- `PRIO.HIGHEST` (R123): `TQ.ENQ` at `HIGHEST`. -/
def execPrioHighest (p : Buf) (dest : Addr) (droppable : Bool) (s : State) : Result :=
  enqueueCmd p dest .highest droppable s

/-- `ACKP` (R122, R269): the payload byte of an acknowledgement retires the queue entry that has the acknowledgement's
sender as its destination and the byte as its sequence number; a `W_NOMATCH` is logged and ignored. -/
def execAckp (acked : Byte) (s : State) : Result :=
  .next (removeByKey s.rx.sender acked s).2

end Sys2Proof.Machine
end

