-- ==== Sys2Proof/Machine/Send.lean ====
section
/-! DEFINITION. The send entry point and the housekeeping operations (spec/43_scheduler.md R279, R281 to R283). -/

namespace Sys2Proof.Machine

/-! ## `LS.SEND` (R279) -/

/-- Enqueue at most `n` fragments of a send, each in one atomic step (R279); what is left of it stays in `sends` (R87). -/
def runSend (who : Nat) (dest : Addr) : Nat → List Buf → State → State
  | _, [], s => finish opLsSend .ok (.bool true) s
  | 0, p :: ps, s => { s with sends := s.sends ++ [⟨p :: ps, dest, who⟩] }
  | n + 1, p :: ps, s =>
    let r := enqueue p dest .low false s
    if r.1 = .ok then runSend who dest n ps r.2 else finish opLsSend r.1 (.bool false) r.2

/-- The enqueues of an accepted `LS.SEND`, which may be interrupted before the first (R87). -/
def startSend (dest : Addr) (ps : List Buf) (s : State) : State :=
  runSend s.issuer dest ((takeCut s).1.getD ps.length) ps (takeCut s).2

/-- A send in progress goes on with at least one enqueue (R87). -/
def resumeJob (j : SendJob) (s : State) : State :=
  runSend j.issuer j.dest ((takeCut s).1.elim j.rest.length (· + 1)) j.rest (takeCut s).2

/-- The `k`-th send in progress goes on; without one, nothing happens. -/
def resumeSend (k : Nat) (s : State) : State :=
  match s.sends[k]? with
  | some j => resumeJob j { s with sends := s.sends.eraseIdx k }
  | none => s

/-- The first sub-step of `LS.SEND` (R279): cap, then room for all `k` fragments. -/
def sendRoom (type : PType) (allowDrop : Bool) (k : Nat) : State → Code × State :=
  atomic fun s =>
    if allowDrop && decide (type ∉ s.params.exemptTypes) && capReached s then (.eQfull, s)
    else if exceedsDepth s (s.tq.length + k) then (.eQovf, raise .eQovf [s.tq.length] s)
    else (.ok, s)

/-- `LS.SEND` (R279), with the order of R324 (i). -/
def execLsSend (data : Buf) (type : PType) (dest : Byte) (requireAck allowDrop : Bool) (s : State) : Result :=
  if data.isEmpty then .next (finish opLsSend .eEmpty (.bool false) s)
  else if 15 < dest.toNat then .next (finish opLsSend .eBadCmd (.bool false) s)
  else if type ∉ s.params.knownTypes then .next (finish opLsSend .eType (.bool false) s)
  else
    let d : Addr := dest.extractLsb' 0 4
    let r := sendRoom type allowDrop (chunksOf s.params.maxPayload data).length s
    if r.1 = .ok then .next (startSend d (fragPkts r.2 data type requireAck (localAddr r.2) d) r.2)
    else .next (finish opLsSend r.1 (.bool false) r.2)

/-! ## `LS.RESET` (R281) -/

/-- Every piece of state but the configuration registers 0 to 6 at its reset value (R281, R370 (b)); the model's own ports
and inputs are not state of the block and stay (log entry 11). -/
def resetBlock (s : State) : State :=
  { State.init s.params with
    cfgAddr := s.cfgAddr
    cfgSf := s.cfgSf
    cfgKeyEn := s.cfgKeyEn
    cfgKey := s.cfgKey
    cfgTimeout := s.cfgTimeout
    cfgMaxRetry := s.cfgMaxRetry
    cfgPromisc := s.cfgPromisc
    port := s.port
    issuer := s.issuer
    tickIssuer := s.tickIssuer
    polls := s.polls
    txAnswers := s.txAnswers
    initAnswers := s.initAnswers
    knowns := s.knowns
    draws := s.draws
    preempt := s.preempt
    turns := s.turns
    free := s.free
    choices := s.choices
    out := s.out }

/-- `LS.RESET` (R281); refused while a tick or a send is in progress (R371; log entry 15). -/
def execLsReset (s : State) : Result :=
  if s.tick.isEmpty && s.sends.isEmpty then .next (finish opLsReset .ok .none (resetBlock s))
  else .refused .resetMidOperation

/-! ## `CFG.WR`, `CFG.RD` (R282, R283) -/

/-- Write a legal value to a configuration register (R37). -/
def writeReg (r : CfgReg) (v : Nat) (s : State) : State :=
  match r with
  | .addr => { s with cfgAddr := BitVec.ofNat 8 v }
  | .sf => { s with cfgSf := BitVec.ofNat 3 v }
  | .keyEn => { s with cfgKeyEn := v == 1 }
  | .key => { s with cfgKey := BitVec.ofNat 256 v }
  | .timeout => { s with cfgTimeout := BitVec.ofNat 32 v }
  | .maxRetry => { s with cfgMaxRetry := BitVec.ofNat 8 v }
  | .promisc => { s with cfgPromisc := v == 1 }
  | .flt => s

/-- `CFG.WR` on the state (R282): register, lock, value, in this order. -/
def cfgWrite (r : CfgReg) (v : Nat) : State → Code × State :=
  atomic fun s =>
    if r == .flt then (.eBadCmd, s)
    else if r != .addr && !cfgUnlocked s then (.eCfgLock, s)
    else if !cfgLegal s r v then (.eBadCfg, s)
    else (.ok, writeReg r v s)

/-- `CFG.WR` (R282). -/
def execCfgWr (reg : CfgReg) (value : Nat) (s : State) : Result :=
  let r := cfgWrite reg value s
  .next (finish opCfgWr r.1 .none r.2)

/-- The value of a readable register (R283); the key is write-only. -/
def readReg (r : CfgReg) (s : State) : Option (BitVec 256) :=
  match r with
  | .addr => some (s.cfgAddr.setWidth 256)
  | .sf => some (s.cfgSf.setWidth 256)
  | .keyEn => some ((BitVec.ofBool s.cfgKeyEn).setWidth 256)
  | .key => none
  | .timeout => some (s.cfgTimeout.setWidth 256)
  | .maxRetry => some (s.cfgMaxRetry.setWidth 256)
  | .promisc => some ((BitVec.ofBool s.cfgPromisc).setWidth 256)
  | .flt => some (s.flt.setWidth 256)

/-- `CFG.RD` (R283). -/
def execCfgRd (reg : CfgReg) (s : State) : Result :=
  match readReg reg s with
  | some v => .next (finish opCfgRd .ok (.value v) s)
  | none => .next (finish opCfgRd .eBadCmd .none s)

end Sys2Proof.Machine
end

