-- ==== Sys2Proof/Machine/Tracker.lean ====
section
/-! DEFINITION. The receive tracker operation (spec/42_rxtracker.md) on the command port. -/

namespace Sys2Proof.Machine

/-- `RT.ACCEPT` (R231). -/
def execRtAccept (a : Addr) (p : Buf) (s : State) : Result :=
  let r := acceptPkt a p s
  .next (finish opRtAccept r.1.code (.optMsg r.1.msg) r.2)

end Sys2Proof.Machine
end

