-- ==== Sys2Proof/Machine/Dispatch.lean ====
section
/-! DEFINITION. The dispatch: one arm per operation, each one call of its meaning. -/

namespace Sys2Proof.Machine

def exec (i : Instr) (s : State) : Host.Outcome State Fault Refusal :=
  match i with
  | .pktEncode payload type qos split src dst => Sys2Proof.Machine.execPktEncode payload type qos split src dst s
  | .pktCsum p => Sys2Proof.Machine.execPktCsum p s
  | .pktCheck p => Sys2Proof.Machine.execPktCheck p s
  | .pktToWire p key => Sys2Proof.Machine.execPktToWire p key s
  | .pktFromWire w key => Sys2Proof.Machine.execPktFromWire w key s
  | .pktFrag data type qos src dst => Sys2Proof.Machine.execPktFrag data type qos src dst s
  | .tqEnq p dest prio droppable => Sys2Proof.Machine.execTqEnq p dest prio droppable s
  | .tqPeek now => Sys2Proof.Machine.execTqPeek now s
  | .tqNext now => Sys2Proof.Machine.execTqNext now s
  | .tqMark p now => Sys2Proof.Machine.execTqMark p now s
  | .tqRmkey dest seq => Sys2Proof.Machine.execTqRmkey dest seq s
  | .tqClean now => Sys2Proof.Machine.execTqClean now s
  | .rtAccept a p => Sys2Proof.Machine.execRtAccept a p s
  | .lsTick now => Sys2Proof.Machine.execLsTick now s
  | .lsSend data type dest requireAck allowDrop => Sys2Proof.Machine.execLsSend data type dest requireAck allowDrop s
  | .lsReset => Sys2Proof.Machine.execLsReset s
  | .cfgWr reg value => Sys2Proof.Machine.execCfgWr reg value s
  | .cfgRd reg => Sys2Proof.Machine.execCfgRd reg s
  | .tPing h body => Sys2Proof.Machine.execTPing h body s
  | .tOta h body => Sys2Proof.Machine.execTOta h body s
  | .tData h body => Sys2Proof.Machine.execTData h body s
  | .tAck h body => Sys2Proof.Machine.execTAck h body s
  | .tId h body => Sys2Proof.Machine.execTId h body s
  | .hdrReserved5 h body => Sys2Proof.Machine.execHdrReserved5 h body s
  | .hdrReserved6 h body => Sys2Proof.Machine.execHdrReserved6 h body s
  | .hdrReserved7 h body => Sys2Proof.Machine.execHdrReserved7 h body s
  | .ackp acked => Sys2Proof.Machine.execAckp acked s
  | .stInit now => Sys2Proof.Machine.execStInit now s
  | .stListening now => Sys2Proof.Machine.execStListening now s
  | .stTransmitting now => Sys2Proof.Machine.execStTransmitting now s
  | .stEnterListen now => Sys2Proof.Machine.execStEnterListen now s
  | .stEnterTransmit now => Sys2Proof.Machine.execStEnterTransmit now s
  | .prioLow p dest droppable => Sys2Proof.Machine.execPrioLow p dest droppable s
  | .prioHigh p dest droppable => Sys2Proof.Machine.execPrioHigh p dest droppable s
  | .prioHighest p dest droppable => Sys2Proof.Machine.execPrioHighest p dest droppable s

end Sys2Proof.Machine
end

