-- ==== Sys2Proof/Machine/Fetch.lean ====
section
/-! DEFINITION. Which agent moves next and what it fetches (spec/20_memory.md R86, R87, R90). -/

namespace Sys2Proof.Machine

/-- No tick and no send is in progress. -/
def idle (s : State) : Bool := s.tick.isEmpty && s.sends.isEmpty

/-- Who moves next: the command port when nothing is in progress; else what the script of turns says, or a free value
(R86 "a model leaves it open"; log entry 13). -/
def nextTurn (s : State) : Turn × State :=
  if idle s then (.port, s)
  else
    match s.turns with
    | t :: ts => (t, { s with turns := ts })
    | [] => (Config.freeTurn s.choices, { s with choices := s.choices + 1 })

/-- A frame that decodes to no operation is refused with `E_BADCMD` and changes no state (R125 (e)). -/
def refuseFrame (f : Frame) (s : State) : State := badCmd (f.bytes.headD 0) s

/-- The agent has an operation that is not finished: the tick in progress, or a send in progress. -/
def busy (s : State) (agent : Nat) : Bool :=
  (!s.tick.isEmpty && s.tickIssuer == agent) || s.sends.any fun j => j.issuer == agent

/-- The oldest frame whose agent is not busy, with what stands before and after it: the operations of one producer are
executed in arrival order, each after the one before it is finished (R90; log entry 40). -/
def nextFrame (s : State) : Option (List Frame × Frame × List Frame) := splitFirst (fun f => !busy s f.agent) s.port

/-- A frame taken from the port: the other frames stay, and its agent is noted, as that of a tick too if it starts one. -/
def fetched (f : Frame) (rest : List Frame) (s : State) : State :=
  { s with port := rest, issuer := f.agent, tickIssuer := if s.tick.isEmpty then f.agent else s.tickIssuer }

/-- One move of the command port: the oldest frame of an agent that is not busy is decoded and run (R90); with no such frame
the block holds its state (R342). The one list is the order in which commands of different producers win the lock, which
the spec leaves open (R86): the order of the list is a DESIGN CHOICE (log entry 36). -/
def portStep (s : State) : Result :=
  match nextFrame s with
  | none => .next s
  | some (before, f, after) =>
    match decode f.fmt f.bytes with
    | .ok i => exec i (fetched f (before ++ after) s)
    | .error _ => .next (refuseFrame f (fetched f (before ++ after) s))

/-- An agent that has nothing in progress. -/
def freshAgent (s : State) : Nat := s.sends.foldl (fun n j => max n (j.issuer + 1)) (s.tickIssuer + 1)

end Sys2Proof.Machine
end

