-- ==== Sys2Proof/Machine/Step.lean ====
section
/-! DEFINITION. One step: the agent whose turn it is makes its next move (spec/20_memory.md R86, R87). -/

namespace Sys2Proof.Machine

/-- One step of the machine. -/
def step (s : State) : Host.Outcome State Fault Refusal :=
  match (nextTurn s).1 with
  | .port => portStep (nextTurn s).2
  | .tick => .next (resumeTick (nextTurn s).2)
  | .send k => .next (resumeSend k (nextTurn s).2)

/-- The state with a table word waiting first on the command port, issued by an agent with nothing in progress, the
port's turn next, and its run not interrupted, so that the very next step runs it whole (log entry 3). -/
def State.withFetchWord (s : State) (nbits w : Nat) : State :=
  { s with
    port := tableFrame nbits w (freshAgent s) :: s.port
    preempt := none :: s.preempt
    turns := if idle s then s.turns else .port :: s.turns }

end Sys2Proof.Machine
end

