-- ==== Sys2Proof/Safety.lean ====
section
/-! DEFINITION. What counts as a sound state and a safe step, in the terms the statements use. -/

namespace Sys2Proof.Machine

/-- The step answers a next state: neither a fault nor a refusal. -/
def answersNext (r : Result) : Bool :=
  match r with
  | .next _ => true
  | .fault _ => false
  | .refused _ => false

/-- Operations run one after the other, as a single producer issues them; a stop ends the run. -/
def execAll : List Instr → State → Result
  | [], s => .next s
  | i :: is, s =>
    match exec i s with
    | .next t => execAll is t
    | .fault f => .fault f
    | .refused r => .refused r

/-- The step at `s` runs the operation `i`: the command port has the turn, and the oldest frame of an agent that is not busy
decodes to `i` (R90). -/
def stepRuns (i : Instr) (s : State) : Prop :=
  (nextTurn s).1 = .port ∧ ∃ before f after, s.port = before ++ f :: after ∧ (∀ g ∈ before, busy s g.agent = true) ∧
    busy s f.agent = false ∧ decode f.fmt f.bytes = .ok i

/-- What every queue entry keeps: a packet of 5 to `MTU` bytes (R38); `seq_assigned = 0` implies `sent_count = 0` (R39 (c));
`sent_count <= max_retry + 1` (R39 (d)); once it has its number the packet is sealed (R196); a retry budget of at most 254
(R37). -/
abbrev Entry.Sound (mtu : Nat) (e : Entry) : Prop :=
  5 ≤ e.pkt.length ∧ e.pkt.length ≤ mtu ∧ (e.seqAssigned = false → e.sentCount = 0) ∧
    e.sentCount.toNat ≤ e.maxRetry.toNat + 1 ∧ (e.seqAssigned = true → xorAll e.pkt = 0) ∧ e.maxRetry.toNat ≤ 254

/-- The queue's invariants (R39 (a), (f)) and its entries'. -/
abbrev QueueSound (s : State) : Prop :=
  s.tq.Pairwise (fun a b => b.prio.num ≤ a.prio.num) ∧ (∀ d ∈ s.params.qDepth, s.tq.length ≤ d) ∧
    ∀ e ∈ s.tq, e.Sound s.params.mtu

/-- The state's invariant, kept by every step: the queue's; at most `FRAG_MAX` fragments in a tracker (R40); bits 6 and 7
of `FLT` read 0 (R35); `CFG_MAXRETRY` is legal (R37); the queue lock is free between operations (R43). -/
abbrev State.Inv (s : State) : Prop :=
  QueueSound s ∧ (∀ m ∈ s.params.fragMax, ∀ t ∈ s.rt.toList, t.frags.length ≤ m) ∧ s.flt &&& 0xC0 = 0 ∧
    s.cfgMaxRetry.toNat ≤ 254 ∧ s.lock = .free

end Sys2Proof.Machine
end

