-- ==== Sys2Proof/Certificates/Slice0/Obligations.lean ====
section
/-! DEFINITION. The statements for the provers. Each docstring names the rules it formalises; OBLIGATIONS.json lists them.
In every `exec … = .next { s with … }` what is not named is unchanged: the equation is the frame. `lock := .free` is R43
(a): the queue lock is free between operations. `preempt = none :: cs` says that the script does not interrupt the operation
(log entry 12), and `preempt := cs` that its entry is used up. -/

section ObligationStatements

open Sys2Proof Sys2Proof.Machine

/-! ## Encoding -/

/-- Words written out from the spec's encodings (R111, R122, R123, R124, R129) decode to what they stand for. -/
def Obligations.SpecWordsDecode : Prop :=
  decode .cmd [0x32] = .ok .lsReset ∧
  decode .cmd [0x30, 0x01, 0x00, 0x00, 0x00] = .ok (.lsTick 1) ∧
  decode .hdr [0x32, 0x00, 0x31, 0x05, 0x07, 0x68, 0x69] = .ok (.tData ⟨1, true, false, 0, 3, 1, 5, 7⟩ [0x68, 0x69]) ∧
  decode .hdr [0x2F, 0x00, 0xE0, 0x00, 0xFF] = .ok (.hdrReserved7 ⟨1, false, true, 0, 14, 0, 0, 255⟩ []) ∧
  decode .ackp [0x07, 0x63] = .ok (.ackp 7) ∧
  decode .state [0x03, 0x01, 0x00, 0x00, 0x00] = .ok (.stEnterListen 1) ∧
  decode .prio [0x02, 0x00, 0x03, 0x01] = .ok (.prioHighest [] 3 true)

/-- Decoding the encoding of a well-formed operation gives it back, for every operation and every operand. -/
def Obligations.DecodeEncodeAgree : Prop :=
  ∀ i : Instr, i.wellFormed = true → decode i.format (encode i) = .ok i

/-- Packing then unpacking gives every header field back (R112, R113), and every packet of at least five bytes is the
encoding of the header row it decodes to: no bit of a header is dropped. -/
def Obligations.HeaderBitsSurvive : Prop :=
  (∀ (h : Hdr) (type : PType) (body : Buf),
    unpackHdr (packHdr h type ++ body) = h ∧ typeOf (packHdr h type ++ body) = type) ∧
  ∀ p : Buf, 5 ≤ p.length → ∃ i, decode .hdr p = .ok i ∧ encode i = p

/-- Opcodes outside the table, state codes 5 to 7 and priority 3, alone and as the operand of `TQ.ENQ`, decode to nothing,
and so do operands out of the range of their type (R112, R123, R125 (e), (g), R129): here of `TQ.RMKEY`, `CFG.RD`, `TQ.ENQ`, and
for every operation in that a frame decodes only if it begins with the encoding of what it decodes to. The serialisation is
the model's choice (log entry 1). -/
def Obligations.UnassignedCodesDecodeToNothing : Prop :=
  (∀ (op : Byte) (bs : List Byte),
    op ∉ ([0x01, 0x02, 0x03, 0x04, 0x05, 0x06, 0x10, 0x11, 0x12, 0x13, 0x14, 0x15, 0x20, 0x30, 0x31, 0x32, 0x38,
      0x39] : List Byte) → decode .cmd (op :: bs) = .error .unknownOpcode) ∧
  (∀ (b : Byte) (bs : List Byte), 5 ≤ b.toNat → b.toNat ≤ 7 → decode .state (b :: bs) = .error .reservedCode) ∧
  (∀ bs : List Byte, decode .prio (3 :: bs) = .error .reservedCode) ∧
  (∀ (p : Buf) (dest : Addr) (bs : List Byte),
    decode .cmd (0x10 :: (putBuf p ++ putBits 4 dest ++ 3 :: bs)) = .error .reservedCode) ∧
  (∀ (p : Buf) (dest : Addr) (prio : Prio) (b : Byte) (bs : List Byte), 2 ≤ b.toNat →
    decode .cmd (0x10 :: (putBuf p ++ putBits 4 dest ++ codeOfPrio prio :: b :: bs)) = .error .operandRange) ∧
  (∀ (b : Byte) (bs : List Byte), 16 ≤ b.toNat → decode .cmd (0x14 :: b :: bs) = .error .operandRange) ∧
  (∀ (b : Byte) (bs : List Byte), 8 ≤ b.toNat → decode .cmd (0x39 :: b :: bs) = .error .operandRange) ∧
  ∀ (fmt : Format) (bs : List Byte) (i : Instr), decode fmt bs = .ok i →
    i.format = fmt ∧ i.wellFormed = true ∧ ∃ rest, bs = encode i ++ rest

/-! ## The step -/

/-- A step runs the oldest waiting operation of an agent that is not busy (R90) when the port has the turn: with nothing in
progress, or when the script of turns says so (R86). An agent is busy while its tick or send is in progress. That frames name
their agents is the model's form of R90 (log entry 40). -/
def Obligations.StepRunsDecodedInstruction : Prop :=
  ∀ (s : State) (before after : List Frame) (f : Frame) (i : Instr), s.port = before ++ f :: after →
    (∀ g ∈ before, busy s g.agent = true) → busy s f.agent = false → decode f.fmt f.bytes = .ok i →
    let s1 : State := { s with
      port := before ++ after, issuer := f.agent, tickIssuer := if s.tick = [] then f.agent else s.tickIssuer }
    (s.tick = [] → s.sends = [] → before = [] ∧ step s = exec i s1) ∧
    ∀ ts : List Turn, ¬(s.tick = [] ∧ s.sends = []) → s.turns = .port :: ts → step s = exec i { s1 with turns := ts }

/-- A frame that decodes to no operation is refused with `E_BADCMD` and changes no state of the block (R125 (e)), with nothing
in progress and in the middle of a tick or a send alike. -/
def Obligations.StepRefusesUndecodableFrame : Prop :=
  ∀ (s : State) (before after : List Frame) (f : Frame) (e : DecodeError), s.port = before ++ f :: after →
    (∀ g ∈ before, busy s g.agent = true) → busy s f.agent = false → decode f.fmt f.bytes = .error e →
    let s1 : State := { s with
      port := before ++ after, issuer := f.agent, tickIssuer := if s.tick = [] then f.agent else s.tickIssuer,
      out := s.out ++ [.result (f.bytes.headD 0) .eBadCmd .none] }
    (s.tick = [] → s.sends = [] → step s = .next s1) ∧
    ∀ ts : List Turn, ¬(s.tick = [] ∧ s.sends = []) → s.turns = .port :: ts → step s = .next { s1 with turns := ts }

/-- Whose turn it is (R86, R87): an idle block with no frame holds its state; a tick or a send in progress goes on when the
script of turns gives it the turn; a port whose waiting frames are all of busy agents waits, so that no command of an agent
overtakes its own unfinished tick or send (R90, R386). Each agent's frames leave the port in their order, and an unfinished
operation keeps the agent that issued it. Script and agents are the model's form of the open order (log entries 13, 40). -/
def Obligations.StepFollowsTurns : Prop :=
  (∀ s : State, s.tick = [] → s.sends = [] → s.port = [] → step s = .next s) ∧
  (∀ (s : State) (ts : List Turn), ¬(s.tick = [] ∧ s.sends = []) → s.turns = .tick :: ts →
    step s = .next (resumeTick { s with turns := ts })) ∧
  (∀ (s : State) (k : Nat) (ts : List Turn), ¬(s.tick = [] ∧ s.sends = []) → s.turns = .send k :: ts →
    step s = .next (resumeSend k { s with turns := ts })) ∧
  (∀ (s : State) (ts : List Turn), ¬(s.tick = [] ∧ s.sends = []) → s.turns = .port :: ts →
    (∀ f ∈ s.port, s.tick ≠ [] ∧ f.agent = s.tickIssuer ∨ ∃ j ∈ s.sends, f.agent = j.issuer) →
    step s = .next { s with turns := ts }) ∧
  ∀ s t : State, step s = .next t →
    (t.port = s.port ∨ ∃ (before after : List Frame) (f : Frame), s.port = before ++ f :: after ∧ t.port = before ++ after ∧
      t.issuer = f.agent ∧ busy s f.agent = false ∧ ∀ g ∈ before, g.agent ≠ f.agent) ∧
    (s.tick ≠ [] → t.tickIssuer = s.tickIssuer) ∧ (s.tick = [] → t.tick ≠ [] → t.tickIssuer = t.issuer) ∧
    ∀ j ∈ t.sends, j.issuer = t.issuer ∨ ∃ j' ∈ s.sends, j'.issuer = j.issuer

/-- A tick cut at any of its sub-step boundaries and resumed with no other operation in between ends in the state of the
uncut tick (R87), after finitely many resumptions, whatever the script of interruptions or the free choice after it says (log
entry 12). Only that script and its counter differ. -/
def Obligations.InterruptedTickEndsAlike : Prop :=
  ∀ (now : Ticks) (s : State), s.tick = [] →
    ∃ (k : Nat) (t u : State), exec (.lsTick now) s = .next t ∧ exec (.lsTick now) { s with preempt := [none] } = .next u ∧
      (resumeTick^[k] t).tick = [] ∧
      { resumeTick^[k] t with preempt := [], choices := 0 } = { u with preempt := [], choices := 0 }

/-! ## The packet codec -/

/-- `PKT.ENCODE` (R152, R117): header with checksum and sequence 0, payload, zero padding to a multiple of 16 under
encryption; `E_TOOLONG` and the empty packet above `MAX_PAYLOAD`. -/
def Obligations.PktEncodeResult : Prop :=
  ∀ (payload : Buf) (type : PType) (qos split : Bool) (src dst : Addr) (s : State),
    let pad := if s.cfgKeyEn then (16 - (5 + payload.length) % 16) % 16 else 0
    let p : Buf := [ctrlByte s.params.versionCur qos split type, BitVec.ofNat 8 pad, addrByte src dst, 0, 0] ++ payload ++
      List.replicate pad 0
    (s.cfgKeyEn = true → p.length % 16 = 0 ∧ pad ≤ 15) ∧
    exec (.pktEncode payload type qos split src dst) s =
      .next { s with
        out := s.out ++
          [if payload.length ≤ s.params.maxPayload then .result 0x01 .ok (.pkt p)
            else .result 0x01 .eTooLong (.pkt [])] }

/-- `PKT.CSUM` (R153): the XOR of every byte except byte 3. -/
def Obligations.PktCsumResult : Prop :=
  ∀ (p : Buf) (s : State),
    exec (.pktCsum p) s =
      .next { s with
        out := s.out ++
          [if 5 ≤ p.length then .result 0x02 .ok (.byte (xorAll (p.take 3 ++ p.drop 4)))
            else .result 0x02 .eShort (.byte 0)] }

/-- `PKT.CHECK` (R155): short, XOR, type, version, in this order. -/
def Obligations.PktCheckResult : Prop :=
  ∀ (p : Buf) (s : State),
    exec (.pktCheck p) s =
      .next { s with
        out := s.out ++
          [if p.length < 5 then .result 0x03 .eShort (.bool false)
            else if xorAll p ≠ 0 then .result 0x03 .eXor (.bool false)
            else if typeOf p ∉ s.params.knownTypes then .result 0x03 .eType (.bool false)
            else if versionOf p ∉ s.params.knownVersions then .result 0x03 .eVersion (.bool false)
            else .result 0x03 .ok (.bool true)] }

/-- `PKT.TOWIRE` (R156). -/
def Obligations.PktToWireResult : Prop :=
  ∀ (p : Buf) (s : State),
    exec (.pktToWire p none) s =
      .next { s with
        out := s.out ++ [if p.length < 5 then .result 0x04 .eShort (.str []) else .result 0x04 .ok (.str (hex p))] } ∧
    ∀ k : Buf,
      exec (.pktToWire p (some k)) s =
        .next { s with
          out := s.out ++
            [if p.length < 5 then .result 0x04 .eShort (.str [])
              else if k.length ≠ 32 then .result 0x04 .eKeylen (.str [])
              else if p.length % 16 ≠ 0 then .result 0x04 .eAlign (.str [])
              else .result 0x04 .ok (.str (hex (enc k p)))] }

/-- `PKT.FROMWIRE` (R157): hex, key length, alignment, short, padding length, in this order (R324 (a)). -/
def Obligations.PktFromWireResult : Prop :=
  ∀ (w : Buf) (s : State),
    (unhex w = none → ∀ key : Option Buf,
      exec (.pktFromWire w key) s = .next { s with out := s.out ++ [.result 0x05 .eHex (.pkt [])] }) ∧
    ∀ b : Buf, unhex w = some b →
      (∀ (key : Option Buf) (c : Buf),
        (key = none ∧ c = b ∨ ∃ k, key = some k ∧ k.length = 32 ∧ b.length % 16 = 0 ∧ c = dec k b) →
        exec (.pktFromWire w key) s =
          .next { s with
            out := s.out ++
              [if c.length < 5 then .result 0x05 .eShort (.pkt [])
                else if c.length - 5 < (padlenOf c).toNat then .result 0x05 .ePadlen (.pkt [])
                else .result 0x05 .ok (.pkt c)] }) ∧
      ∀ k : Buf, (k.length ≠ 32 ∨ b.length % 16 ≠ 0) →
        exec (.pktFromWire w (some k)) s =
          .next { s with
            out := s.out ++ [.result 0x05 (if k.length ≠ 32 then .eKeylen else .eAlign) (.pkt [])] }

/-- `PKT.FRAG` (R159): `ceil(N / MAX_PAYLOAD)` packets, packet `i` with chunk `i`, all but the last split; their payloads
joined are the data. -/
def Obligations.PktFragResult : Prop :=
  ∀ (data : Buf) (type : PType) (qos : Bool) (src dst : Addr) (s : State), 21 ≤ s.params.mtu →
    (data = [] → exec (.pktFrag data type qos src dst) s =
      .next { s with out := s.out ++ [.result 0x06 .eEmpty (.pkts [])] }) ∧
    (data ≠ [] → ∃ ps : List Buf,
      exec (.pktFrag data type qos src dst) s = .next { s with out := s.out ++ [.result 0x06 .ok (.pkts ps)] } ∧
      ps.length = (data.length + s.params.maxPayload - 1) / s.params.maxPayload ∧
      (∀ i < ps.length,
        ps[i]? = some (buildPkt s.params.versionCur s.cfgKeyEn
          ((data.drop (i * s.params.maxPayload)).take s.params.maxPayload) type qos (decide (i + 1 < ps.length)) src dst)) ∧
      ps.flatMap payloadOf = data)

/-- `PKT.SEAL` (R154): the XOR of the result is 0, sealing again changes nothing, and only byte 3 is written. Seal then
check (R160): a sealed packet that `PKT.ENCODE` built passes when its type is known, and fails when it is not. -/
def Obligations.SealedPacketPassesCheck : Prop :=
  (∀ p : Buf, 5 ≤ p.length →
    xorAll (sealPkt p) = 0 ∧ sealPkt (sealPkt p) = sealPkt p ∧ (sealPkt p).length = p.length ∧
      ∀ i, i ≠ 3 → (sealPkt p)[i]? = p[i]?) ∧
  ∀ (payload : Buf) (type : PType) (qos split : Bool) (src dst : Addr) (s : State),
    s.params.versionCur ∈ s.params.knownVersions → payload.length ≤ s.params.maxPayload →
    ∃ p, encodePkt s payload type qos split src dst = .ok p ∧
      exec (.pktCheck (sealPkt p)) s =
        .next { s with
          out := s.out ++
            [if type ∈ s.params.knownTypes then .result 0x03 .ok (.bool true) else .result 0x03 .eType (.bool false)] }

/-- Single-byte corruption (R162): a sealed packet with one byte changed fails the check. -/
def Obligations.SingleByteCorruptionDetected : Prop :=
  ∀ (p : Buf) (i : Nat) (v : Byte) (s : State), 5 ≤ p.length → xorAll p = 0 → i < p.length → p[i]? ≠ some v →
    exec (.pktCheck (p.set i v)) s = .next { s with out := s.out ++ [.result 0x03 .eXor (.bool false)] }

/-- Hex (R119, R120): decoding inverts encoding, and is defined exactly on strings of even length of hex digits. That the
digits `0-9A-Fa-f` have the numbers 0x30..0x39, 0x41..0x46, 0x61..0x66 is the model's choice (PRESUMED ASCII, log entry 24). -/
def Obligations.HexDecodingInvertsEncoding : Prop :=
  (∀ b : Buf, unhex (hex b) = some b ∧ (hex b).length = 2 * b.length) ∧
  ∀ w : Buf, (unhex w).isSome = true ↔
    w.length % 2 = 0 ∧ ∀ c ∈ w, 0x30 ≤ c.toNat ∧ c.toNat ≤ 0x39 ∨ 0x41 ≤ c.toNat ∧ c.toNat ≤ 0x46 ∨
      0x61 ≤ c.toNat ∧ c.toNat ≤ 0x66

/-- Round trip (R161): a valid packet comes back from the wire, without a key, and with a 32-byte key when its length is a
multiple of 16. -/
def Obligations.WireRoundTrip : Prop :=
  ∀ p : Buf, 5 ≤ p.length → (padlenOf p).toNat ≤ p.length - 5 → ∀ key : Option Buf,
    (∀ k ∈ key, k.length = 32 ∧ p.length % 16 = 0) → ∃ w, toWire p key = .ok w ∧ fromWire w key = .ok p

/-! ## The transmit queue -/

/-- `TQ.PEEK` (R194, with the predicate of R191). -/
def Obligations.TqPeekResult : Prop :=
  ∀ (now : Ticks) (s : State), ∃ b : Bool,
    exec (.tqPeek now) s = .next { s with lock := .free, out := s.out ++ [.result 0x11 .ok (.bool b)] } ∧
    (b = true ↔ ∃ e ∈ s.tq, e.sentCount = 0 ∨
      (e.timeout.toNat ≤ (now - e.lastSent).toNat ∧ e.sentCount.toNat ≤ e.maxRetry.toNat))

/-- `TQ.ENQ` (R192, R193) and the priority rows (R123): the refusals in order, and where the new entry goes. Its
`last_sent` is open (log entry 21). That a packet longer than the entry's `MTU` bytes (R38) is refused with `E_BADCMD` is the
model's choice (log entry 38). -/
def Obligations.TqEnqResult : Prop :=
  ∀ (p : Buf) (dest : Addr) (prio : Prio) (droppable : Bool) (s : State) (i : Instr),
    i = .tqEnq p dest prio droppable ∨ (i = .prioLow p dest droppable ∧ prio = .low) ∨
      (i = .prioHigh p dest droppable ∧ prio = .high) ∨ (i = .prioHighest p dest droppable ∧ prio = .highest) →
    let capped := droppable = true ∧ typeOf p ∉ s.params.exemptTypes ∧ s.params.qCap ≤ s.tq.length
    let full := ∃ d, s.params.qDepth = some d ∧ d ≤ s.tq.length
    (s.params.mtu < p.length →
      exec i s = .next { s with lock := .free, out := s.out ++ [.result 0x10 .eBadCmd .none] }) ∧
    (p.length ≤ s.params.mtu →
      (p.length < 5 → exec i s = .next { s with lock := .free, out := s.out ++ [.result 0x10 .eShort .none] }) ∧
      (5 ≤ p.length → capped →
        exec i s = .next { s with lock := .free, out := s.out ++ [.result 0x10 .eQfull .none] }) ∧
      (5 ≤ p.length → ¬capped → full →
        exec i s = .next { s with
          lock := .free, flt := s.flt ||| 0x02,
          out := s.out ++ [.log .eQovf [s.tq.length], .result 0x10 .eQovf .none] }) ∧
      (5 ≤ p.length → ¬capped → ¬full → ∃ (before after : List Entry) (ls : Ticks),
        s.tq = before ++ after ∧ (∀ x ∈ before, prio.num ≤ x.prio.num) ∧ (∀ x ∈ after.head?, x.prio.num < prio.num) ∧
        exec i s = .next { s with
          tq := before ++ ⟨p, dest, prio, 0, ls, s.cfgTimeout, s.cfgMaxRetry, false⟩ :: after,
          free := s.free + 1, lock := .free, out := s.out ++ [.result 0x10 .ok .none] }))

/-- `TQ.NEXT` (R195, R196): nothing sendable; the first sendable entry, already numbered; or its first dispatch, which
writes the number and the checksum into the packet and advances the destination's counter. -/
def Obligations.TqNextResult : Prop :=
  ∀ (now : Ticks) (s : State),
    ((∀ e ∈ s.tq, sendable e now = false) →
      exec (.tqNext now) s = .next { s with lock := .free, out := s.out ++ [.result 0x12 .ok (.optPkt none)] }) ∧
    ∀ (before after : List Entry) (e : Entry), s.tq = before ++ e :: after → sendable e now = true →
      (∀ x ∈ before, sendable x now = false) →
      (e.seqAssigned = true →
        exec (.tqNext now) s =
          .next { s with lock := .free, out := s.out ++ [.result 0x12 .ok (.optPkt (some e.pkt))] }) ∧
      (e.seqAssigned = false →
        let q := sealPkt (e.pkt.set 4 (s.seq[e.dest.toNat]'e.dest.isLt))
        exec (.tqNext now) s =
          .next { s with
            tq := before ++ { e with pkt := q, seqAssigned := true } :: after,
            seq := s.seq.set e.dest.toNat (s.seq[e.dest.toNat]'e.dest.isLt + 1) e.dest.isLt,
            lock := .free, out := s.out ++ [.result 0x12 .ok (.optPkt (some q))] })

/-- `TQ.MARK` (R197): no match; a best-effort entry leaves; an at-least-once entry counts the attempt, and never beyond
`max_retry + 1` (R39 (d)): where one more would be beyond, the count stays there (the model's reading, log entry 20), and then,
as always, the entry is sendable and expires exactly as with `sent_count + 1`. The info of `W_NOMATCH` is read from the packet
(log entry 18). -/
def Obligations.TqMarkResult : Prop :=
  ∀ (p : Buf) (now : Ticks) (s : State),
    ((∀ e ∈ s.tq, ¬(e.seqAssigned = true ∧ e.pkt = p)) →
      exec (.tqMark p now) s = .next { s with
        lock := .free,
        out := s.out ++ [.log .wNoMatch [(dstOf p).toNat, (seqOf p).toNat], .result 0x13 .wNoMatch .none] }) ∧
    ∀ (before after : List Entry) (e : Entry), s.tq = before ++ e :: after → e.seqAssigned = true → e.pkt = p →
      (∀ x ∈ before, ¬(x.seqAssigned = true ∧ x.pkt = p)) →
      (qosOf p = false →
        exec (.tqMark p now) s =
          .next { s with tq := before ++ after, lock := .free, out := s.out ++ [.result 0x13 .ok .none] }) ∧
      (qosOf p = true → ∃ c : Byte, c.toNat ≤ e.maxRetry.toNat + 1 ∧
        (e.sentCount.toNat ≤ e.maxRetry.toNat → e.sentCount ≠ 255 → c = e.sentCount + 1) ∧
        (e.maxRetry.toNat ≤ 254 → ∀ n : Ticks,
          (sendable { e with sentCount := c, lastSent := now } n = true ↔
            e.timeout.toNat ≤ (n - now).toNat ∧ e.sentCount.toNat + 1 ≤ e.maxRetry.toNat) ∧
          (expired { e with sentCount := c, lastSent := now } n = true ↔
            e.maxRetry.toNat < e.sentCount.toNat + 1 ∧ e.timeout.toNat ≤ (n - now).toNat)) ∧
        exec (.tqMark p now) s =
          .next { s with
            tq := before ++ { e with sentCount := c, lastSent := now } :: after,
            lock := .free, out := s.out ++ [.result 0x13 .ok .none] })

/-- `TQ.RMKEY` (R198): the first dispatched entry with that destination and number leaves; otherwise `W_NOMATCH`. -/
def Obligations.TqRmkeyResult : Prop :=
  ∀ (dest : Addr) (seq : Byte) (s : State),
    ((∀ e ∈ s.tq, ¬(e.seqAssigned = true ∧ e.dest = dest ∧ seqOf e.pkt = seq)) →
      exec (.tqRmkey dest seq) s = .next { s with
        lock := .free, out := s.out ++ [.log .wNoMatch [dest.toNat, seq.toNat], .result 0x14 .wNoMatch .none] }) ∧
    ∀ (before after : List Entry) (e : Entry), s.tq = before ++ e :: after → e.seqAssigned = true → e.dest = dest →
      seqOf e.pkt = seq → (∀ x ∈ before, ¬(x.seqAssigned = true ∧ x.dest = dest ∧ seqOf x.pkt = seq)) →
      exec (.tqRmkey dest seq) s =
        .next { s with tq := before ++ after, lock := .free, out := s.out ++ [.result 0x14 .ok .none] }

/-- The `ACKP` row (R122, R269): the acknowledged number retires the entry to the acknowledgement's sender, which is the
latched `rx.sender` (log entry 28). -/
def Obligations.AckpRetiresEntry : Prop :=
  ∀ (n : Byte) (s : State),
    ((∀ e ∈ s.tq, ¬(e.seqAssigned = true ∧ e.dest = s.rx.sender ∧ seqOf e.pkt = n)) →
      exec (.ackp n) s = .next { s with
        lock := .free, out := s.out ++ [.log .wNoMatch [s.rx.sender.toNat, n.toNat]] }) ∧
    ∀ (before after : List Entry) (e : Entry), s.tq = before ++ e :: after → e.seqAssigned = true →
      e.dest = s.rx.sender → seqOf e.pkt = n →
      (∀ x ∈ before, ¬(x.seqAssigned = true ∧ x.dest = s.rx.sender ∧ seqOf x.pkt = n)) →
      exec (.ackp n) s = .next { s with tq := before ++ after, lock := .free }

/-- `TQ.CLEAN` (R199): every entry over its retry budget whose timeout has elapsed is dropped with `E_RETRYEXH`; the rest
keep their order. That the records stand head first is the model's choice (log entry 37). -/
def Obligations.TqCleanResult : Prop :=
  ∀ (now : Ticks) (s : State),
    let spent := fun e : Entry =>
      decide (e.maxRetry.toNat < e.sentCount.toNat ∧ e.timeout.toNat ≤ (now - e.lastSent).toNat)
    let gone := s.tq.filter spent
    exec (.tqClean now) s = .next { s with
      tq := s.tq.filter (fun e => !spent e),
      flt := if gone = [] then s.flt else s.flt ||| 0x10,
      lock := .free,
      out := s.out ++ gone.map (fun e => .log .eRetryExh [e.dest.toNat, (seqOf e.pkt).toNat]) ++
        [.result 0x15 .ok (.count gone.length)] }

/-- Packets enqueued in any order stand by priority, and by arrival within a priority (R39 (a), (b), R192, R201). -/
def Obligations.EnqueueOrderIsPriorityThenArrival : Prop :=
  ∀ (s : State) (qs : List (Buf × Addr × Prio)), s.tq = [] →
    (∀ q ∈ qs, 5 ≤ q.1.length ∧ q.1.length ≤ s.params.mtu) →
    (∀ d ∈ s.params.qDepth, qs.length ≤ d) →
    ∃ t, execAll (qs.map fun q => .tqEnq q.1 q.2.1 q.2.2 false) s = .next t ∧
      t.tq.map (fun e => (e.pkt, e.dest, e.prio)) =
        qs.filter (fun q => q.2.2 = .highest) ++ qs.filter (fun q => q.2.2 = .high) ++ qs.filter (fun q => q.2.2 = .low)

/-- Retries (R202): an unacknowledged reliable packet handed over `k` times, each after its timeout, has `sent_count = k`;
after `max_retry + 1` hand-overs `TQ.NEXT` never returns it again and `TQ.CLEAN` drops it one timeout later. -/
def Obligations.ReliablePacketIsRetriedThenDropped : Prop :=
  ∀ (s : State) (e : Entry) (ts : List Ticks), s.tq = [e] → e.seqAssigned = true → qosOf e.pkt = true →
    e.sentCount = 0 → e.maxRetry.toNat ≤ 254 → ts ≠ [] → ts.length ≤ e.maxRetry.toNat + 1 →
    ts.IsChain (fun a b => e.timeout.toNat ≤ (b - a).toNat) →
    ∃ t, execAll (ts.flatMap fun n => [.tqNext n, .tqMark e.pkt n]) s = .next t ∧
      t.out = s.out ++ ts.flatMap (fun _ => [.result 0x12 .ok (.optPkt (some e.pkt)), .result 0x13 .ok .none]) ∧
      t.tq = [{ e with sentCount := BitVec.ofNat 8 ts.length, lastSent := ts.getLastD 0 }] ∧
      t.flt = s.flt ∧ t.seq = s.seq ∧
      (ts.length = e.maxRetry.toNat + 1 → ∀ now : Ticks,
        exec (.tqNext now) t = .next { t with out := t.out ++ [.result 0x12 .ok (.optPkt none)] } ∧
        (e.timeout.toNat ≤ (now - ts.getLastD 0).toNat →
          exec (.tqClean now) t = .next { t with
            tq := [], flt := t.flt ||| 0x10,
            out := t.out ++ [.log .eRetryExh [e.dest.toNat, (seqOf e.pkt).toNat], .result 0x15 .ok (.count 1)] }) ∧
        ((now - ts.getLastD 0).toNat < e.timeout.toNat →
          exec (.tqClean now) t = .next { t with out := t.out ++ [.result 0x15 .ok (.count 0)] }))

/-- How entries leave the queue (R204): only by `TQ.RMKEY` (and an acknowledgement), `TQ.MARK`, `TQ.CLEAN`, the scheduler,
and reset; every other operation but `TQ.NEXT` leaves each entry as it is, in its place among the others, and `TQ.NEXT`
keeps their number. -/
def Obligations.EntriesLeaveOnlyByRule : Prop :=
  ∀ (i : Instr) (s t : State), exec i s = .next t →
    (∀ n, i = .tqNext n → t.tq.length = s.tq.length) ∧
    ((∀ n, i ≠ .tqNext n) → (∀ p n, i ≠ .tqMark p n) → (∀ d q, i ≠ .tqRmkey d q) → (∀ n, i ≠ .tqClean n) →
      (∀ n, i ≠ .ackp n) → (i.format = .hdr → typeOf (encode i) ≠ s.params.tAck) → (∀ n, i ≠ .lsTick n) →
      (∀ n, i ≠ .stListening n) → (∀ n, i ≠ .stTransmitting n) → i ≠ .lsReset → s.tq.Sublist t.tq)

/-! ## The receive tracker -/

/-- Duplicate (R232): tracker unchanged, nothing returned, `W_DUP` logged. -/
def Obligations.RtDuplicateIsIgnored : Prop :=
  ∀ (a : Addr) (p : Buf) (s : State), (s.rt[a.toNat]'a.isLt).lastValid = true → (s.rt[a.toNat]'a.isLt).last = p →
    exec (.rtAccept a p) s = .next { s with
      lock := .free,
      out := s.out ++ [.log .wDup [(srcOf p).toNat, (seqOf p).toNat], .result 0x20 .ok (.optMsg none)] }

/-- A new split fragment (R231, R233, R234, R238): stored, or with the buffer full discarded with it, and then the result
code is `E_FRAGOVF` (R36, R326). -/
def Obligations.RtSplitFragmentIsBuffered : Prop :=
  ∀ (a : Addr) (p : Buf) (s : State),
    let t := s.rt[a.toNat]'a.isLt
    let missing := if t.lastValid = true ∧ seqOf p ≠ seqOf t.last + 1 then
      [Out.log .wMissing [(srcOf p).toNat, (seqOf t.last + 1).toNat, (seqOf p).toNat]] else []
    ¬(t.lastValid = true ∧ t.last = p) → splitOf p = true →
    ((∃ m, s.params.fragMax = some m ∧ m ≤ t.frags.length) →
      exec (.rtAccept a p) s = .next { s with
        rt := s.rt.set a.toNat ⟨true, p, []⟩ a.isLt, flt := s.flt ||| 0x04, lock := .free,
        out := s.out ++ missing ++ [.log .eFragOvf [(srcOf p).toNat], .result 0x20 .eFragOvf (.optMsg none)] }) ∧
    ((∀ m ∈ s.params.fragMax, t.frags.length < m) →
      exec (.rtAccept a p) s = .next { s with
        rt := s.rt.set a.toNat ⟨true, p, t.frags ++ [p]⟩ a.isLt, lock := .free,
        out := s.out ++ missing ++ [.result 0x20 .ok (.optMsg none)] })

/-- A new unsplit packet with an empty fragment buffer is a message of its own (R231, R233, R236). -/
def Obligations.RtSinglePacketIsReturned : Prop :=
  ∀ (a : Addr) (p : Buf) (s : State),
    let t := s.rt[a.toNat]'a.isLt
    let missing := if t.lastValid = true ∧ seqOf p ≠ seqOf t.last + 1 then
      [Out.log .wMissing [(srcOf p).toNat, (seqOf t.last + 1).toNat, (seqOf p).toNat]] else []
    ¬(t.lastValid = true ∧ t.last = p) → splitOf p = false → t.frags = [] →
    exec (.rtAccept a p) s = .next { s with
      rt := s.rt.set a.toNat ⟨true, p, []⟩ a.isLt, lock := .free,
      out := s.out ++ missing ++ [.result 0x20 .ok (.optMsg (some (payloadOf p, typeOf p)))] }

/-- A new unsplit packet closes an open run (R231, R233, R235): the payloads in arrival order, the type of the first, the
buffer cleared; the two warnings change nothing else. -/
def Obligations.RtFinalFragmentClosesRun : Prop :=
  ∀ (a : Addr) (p f : Buf) (fs : List Buf) (s : State),
    let t := s.rt[a.toNat]'a.isLt
    let missing := if t.lastValid = true ∧ seqOf p ≠ seqOf t.last + 1 then
      [Out.log .wMissing [(srcOf p).toNat, (seqOf t.last + 1).toNat, (seqOf p).toNat]] else []
    let run := f :: fs ++ [p]
    let badType := if ∃ g ∈ run, typeOf g ≠ typeOf f then [Out.log .wFragType [(srcOf p).toNat]] else []
    let badSeq := if run.IsChain (fun g g' => seqOf g' = seqOf g + 1) then [] else [Out.log .wFragSeq [(srcOf p).toNat]]
    ¬(t.lastValid = true ∧ t.last = p) → splitOf p = false → t.frags = f :: fs →
    exec (.rtAccept a p) s = .next { s with
      rt := s.rt.set a.toNat ⟨true, p, []⟩ a.isLt, lock := .free,
      out := s.out ++ missing ++ badType ++ badSeq ++
        [.result 0x20 .ok (.optMsg (some (run.flatMap payloadOf, typeOf f)))] }

/-- Duplicate suppression (R239): the same packet accepted twice in a row returns nothing the second time and leaves the
state, but for the log. -/
def Obligations.SecondCopyIsSuppressed : Prop :=
  ∀ (a : Addr) (p : Buf) (s : State), ∃ t, exec (.rtAccept a p) s = .next t ∧
    exec (.rtAccept a p) t = .next { t with
      out := t.out ++ [.log .wDup [(srcOf p).toNat, (seqOf p).toNat], .result 0x20 .ok (.optMsg none)] }

/-- Fragmentation (R240): the packets of `PKT.FRAG`, numbered one after the other and sealed as dispatch does (R196),
accepted in order by a tracker with an empty buffer, return nothing but for the last, which returns the data and its
type; no warning but, for the first, that of the packet before the run. That a run of `FRAG_MAX + 1` packets is returned is the
model's reading, R234 and R235 against the bound of R241 (DEDUCED, log entry 39). -/
def Obligations.FragmentsReassemble : Prop :=
  ∀ (s : State) (a : Addr) (data : Buf) (type : PType) (qos : Bool) (src dst : Addr) (n : Byte),
    21 ≤ s.params.mtu → data ≠ [] →
    let ps := (fragPkts s data type qos src dst).mapIdx fun i p => sealPkt (p.set 4 (n + BitVec.ofNat 8 i))
    let t := s.rt[a.toNat]'a.isLt
    let missing := if t.lastValid = true ∧ n ≠ seqOf t.last + 1 then
      [Out.log .wMissing [src.toNat, (seqOf t.last + 1).toNat, n.toNat]] else []
    t.frags = [] → (∀ m ∈ s.params.fragMax, ps.length ≤ m + 1) → (∀ p ∈ ps.head?, ¬(t.lastValid = true ∧ t.last = p)) →
    execAll (ps.map fun p => .rtAccept a p) s = .next { s with
      rt := s.rt.set a.toNat ⟨true, ps.getLastD [], []⟩ a.isLt, lock := .free,
      out := s.out ++ missing ++ List.replicate (ps.length - 1) (.result 0x20 .ok (.optMsg none)) ++
        [.result 0x20 .ok (.optMsg (some (data, type)))] }

/-! ## The scheduler -/

/-- `LS.TICK` (R261): `TQ.CLEAN`, then the handler of `ST`, then the completion; without interruption. That the completion's
code is `OK` whatever the handler raised is the model's choice (log entry 35). -/
def Obligations.LsTickCleansThenRunsHandler : Prop :=
  ∀ (now : Ticks) (s : State) (cs : List (Option Nat)), s.tick = [] → s.preempt = none :: cs →
    ∃ u, exec (instrOfState s.st now) (cleanUp now s).2 = .next u ∧
      exec (.lsTick now) s = .next { u with out := u.out ++ [.result 0x30 .ok .none] }

/-- The transitions of `ST` over a tick (R278): no others exist. -/
def Obligations.TickFollowsTransitionTable : Prop :=
  ∀ (now : Ticks) (s : State) (cs : List (Option Nat)), s.tick = [] → s.preempt = none :: cs →
    ∃ t, exec (.lsTick now) s = .next t ∧ t.tick = [] ∧
    match s.st with
    | .init => t.st = .enterListen
    | .enterListen => t.st = .listening
    | .listening => t.st = .enterTransmit ∨ t.st = .listening
    | .enterTransmit => t.st = .enterListen ∨ t.st = .enterTransmit ∨ t.st = .transmitting
    | .transmitting => t.st = .enterTransmit ∨ t.st = .enterListen

/-- Handler `INIT` (R262): `ST` becomes `ENTER_LISTEN` and nothing else happens. -/
def Obligations.StInitGoesToEnterListen : Prop :=
  ∀ (now : Ticks) (s : State) (cs : List (Option Nat)), s.tick = [] → s.preempt = none :: cs →
    exec (.stInit now) s = .next { s with preempt := cs, st := .enterListen }

/-- Handler `ENTER_LISTEN` (R263, R264): the jitter lies in `0..mlt`, and every value there can be drawn. -/
def Obligations.StEnterListenStartsWindow : Prop :=
  ∀ (now : Ticks) (s : State) (cs : List (Option Nat)), s.tick = [] → s.preempt = none :: cs →
    ∃ (j : Ticks) (ds : List Ticks) (n : Nat), j.toNat ≤ (minListen s).toNat ∧
      (∀ d ds', s.draws = d :: ds' → ds = ds' ∧ n = s.free ∧ (d.toNat ≤ (minListen s).toNat → j = d)) ∧
      exec (.stEnterListen now) s = .next { s with
        preempt := cs, st := .listening, fListen := true, tListen := now, jit := j, fForce := false, draws := ds, free := n,
        out := s.out ++ if s.fListen then [] else [.radioEnterPassiveListen] }

/-- Handler `LISTENING` when the poll brings no packet (R265, R266). -/
def Obligations.StListeningWithoutPacket : Prop :=
  ∀ (now : Ticks) (s : State) (ev : PollAnswer) (ps : List PollAnswer) (cs : List (Option Nat)), s.tick = [] →
    s.preempt = none :: cs → s.polls = ev :: ps → (∀ w q, ev ≠ .received w q) →
    exec (.stListening now) s = .next { s with
      preempt := cs, tRx := now, polls := ps, fForce := false,
      st := if s.fForce = true ∨ 2 * (minListen s).toNat + s.jit.toNat + s.params.minGap ≤ (now - s.tListen).toNat
        then .enterTransmit else .listening,
      out := s.out ++ [.radioPollReceive] ++
        (if ev = .timeout then [.radioEnterPassiveListen]
          else if ev = .unknown then [.log .wRadioUnk [], .radioEnterPassiveListen] else []) }

/-- Handler `LISTENING` with a received string (R265, R267, R266): one that does not decode is logged and dropped; one that
does is routed as its header row routes it; then the state is left as without a packet. -/
def Obligations.StListeningRoutesPacket : Prop :=
  ∀ (now : Ticks) (s : State) (w : Buf) (q : Int) (ps : List PollAnswer) (cs : List (Option Nat)), s.tick = [] →
    s.preempt = none :: cs → s.polls = .received w q :: ps →
    let s1 : State := { s with
      st := .listening, tRx := now, polls := ps, rx := { s.rx with quality := q }, out := s.out ++ [.radioPollReceive] }
    let leave := fun u : State => { u with
      fForce := false,
      st := if u.fForce = true ∨ 2 * (minListen u).toNat + u.jit.toNat + u.params.minGap ≤ (now - u.tListen).toNat
        then .enterTransmit else .listening }
    (∀ r, fromWire w (linkKey s) = .error r →
      exec (.stListening now) s = .next (leave { s1 with preempt := cs, out := s1.out ++ [.log r.code r.info] })) ∧
    ∀ p, fromWire w (linkKey s) = .ok p → ∃ i u, decode .hdr p = .ok i ∧ exec i s1 = .next u ∧
      exec (.stListening now) s = .next (leave u)

/-- Handler `ENTER_TRANSMIT` (R271 to R274): starvation guard, then transmit, then quiet. -/
def Obligations.StEnterTransmitDecides : Prop :=
  ∀ (now : Ticks) (s : State) (cs : List (Option Nat)), s.tick = [] → s.preempt = none :: cs →
    let gap := s.fTxSeen = false ∨ s.params.minGap ≤ (now - s.tTx).toNat
    let starving := (minListen s).toNat + s.params.maxTxWindow < (now - s.tRx).toNat
    let waiting := ∃ e ∈ s.tq, sendable e now = true
    (starving → gap → exec (.stEnterTransmit now) s = .next { s with preempt := cs, st := .enterListen }) ∧
    (starving → ¬gap → exec (.stEnterTransmit now) s = .next { s with preempt := cs, st := .enterTransmit }) ∧
    (¬starving → waiting → gap →
      exec (.stEnterTransmit now) s = .next { s with
        preempt := cs, st := .transmitting, fListen := false, lock := .free,
        out := s.out ++ if s.fListen then [.radioExitPassiveListen] else [] }) ∧
    (¬starving → waiting → ¬gap →
      exec (.stEnterTransmit now) s = .next { s with preempt := cs, st := .enterTransmit, lock := .free }) ∧
    (¬starving → ¬waiting →
      exec (.stEnterTransmit now) s = .next { s with
        preempt := cs, st := if s.params.quietPeriod ≤ (now - s.tRx).toNat then .enterListen else .enterTransmit, lock := .free })

/-- Handler `TRANSMITTING` without a transmission (R275). With nothing sendable: the consistency fault. With an entry the
wire refuses (a key is configured and the length is no multiple of 16): that entry is removed. No radio call is made. -/
def Obligations.StTransmittingWithoutTransmission : Prop :=
  ∀ (now : Ticks) (s : State) (cs : List (Option Nat)), s.tick = [] → s.preempt = none :: cs →
    ((∀ e ∈ s.tq, sendable e now = false) →
      exec (.stTransmitting now) s = .next { s with
        preempt := cs, st := .enterTransmit, flt := s.flt ||| 0x01, lock := .free, out := s.out ++ [.log .eNoSendable []] }) ∧
    ∀ (before after : List Entry) (e : Entry), s.tq = before ++ e :: after → sendable e now = true →
      (∀ x ∈ before, sendable x now = false) → 5 ≤ e.pkt.length → s.cfgKeyEn = true → e.pkt.length % 16 ≠ 0 →
      let p := if e.seqAssigned then e.pkt else sealPkt (e.pkt.set 4 (s.seq[e.dest.toNat]'e.dest.isLt))
      ∀ (b a : List Entry) (m : Entry), before ++ { e with pkt := p, seqAssigned := true } :: after = b ++ m :: a →
        m.seqAssigned = true → m.pkt = p → (∀ x ∈ b, ¬(x.seqAssigned = true ∧ x.pkt = p)) →
        exec (.stTransmitting now) s = .next { s with
          preempt := cs, st := .enterTransmit, tq := b ++ a, flt := s.flt ||| 0x20, lock := .free,
          seq := if e.seqAssigned then s.seq
            else s.seq.set e.dest.toNat (s.seq[e.dest.toNat]'e.dest.isLt + 1) e.dest.isLt,
          out := s.out ++ [.log .eAlign [p.length]] }

/-- Handler `TRANSMITTING` with a transmission (R275 to R277): a failure re-initialises the driver and leaves the entry
unmarked; a success marks the first entry that holds the packet, and a reliable packet moves to `ENTER_LISTEN`. That the
info of `E_TXFAIL` is read from the packet is the model's choice (log entry 18), and so is the count where one more would pass
`max_retry + 1` (log entry 20). -/
def Obligations.StTransmittingAttempt : Prop :=
  ∀ (now : Ticks) (s : State) (before after : List Entry) (e : Entry) (ok : Bool) (as : List Bool)
      (cs : List (Option Nat)), s.tick = [] → s.preempt = none :: cs → s.tq = before ++ e :: after →
    sendable e now = true → (∀ x ∈ before, sendable x now = false) →
    5 ≤ e.pkt.length → (s.cfgKeyEn = true → e.pkt.length % 16 = 0) → s.txAnswers = ok :: as →
    let p := if e.seqAssigned then e.pkt else sealPkt (e.pkt.set 4 (s.seq[e.dest.toNat]'e.dest.isLt))
    let w := if s.cfgKeyEn then hex (enc (keyBytes s.cfgKey) p) else hex p
    let q := before ++ { e with pkt := p, seqAssigned := true } :: after
    let s1 : State := { s with
      preempt := cs, tTx := now, fTxSeen := true, txAnswers := as, tq := q, lock := .free,
      seq := if e.seqAssigned then s.seq
        else s.seq.set e.dest.toNat (s.seq[e.dest.toNat]'e.dest.isLt + 1) e.dest.isLt,
      out := s.out ++ [.radioTransmit w] }
    (ok = false → ∀ (ready : Bool) (is : List Bool), s.initAnswers = ready :: is →
      exec (.stTransmitting now) s = .next { s1 with
        st := .enterTransmit, flt := s.flt ||| 0x08, initAnswers := is,
        out := s1.out ++ [.log .eTxFail [(dstOf p).toNat, (seqOf p).toNat], .radioInitialize s.cfgSf] ++
          if ready then [] else [.log .eReinitFail []] }) ∧
    (ok = true → ∀ (b a : List Entry) (m : Entry), q = b ++ m :: a → m.seqAssigned = true → m.pkt = p →
      (∀ x ∈ b, ¬(x.seqAssigned = true ∧ x.pkt = p)) →
      (qosOf p = false → exec (.stTransmitting now) s = .next { s1 with st := .enterTransmit, tq := b ++ a }) ∧
      (qosOf p = true → ∃ c : Byte, c.toNat ≤ m.maxRetry.toNat + 1 ∧
        (m.sentCount.toNat ≤ m.maxRetry.toNat → m.sentCount ≠ 255 → c = m.sentCount + 1) ∧
        exec (.stTransmitting now) s = .next { s1 with
          st := .enterListen, tq := b ++ { m with sentCount := c, lastSent := now } :: a }))

/-! ## Received packets, by header row -/

/-- A received packet dropped by the check, by the destination filter or for its unknown sender (R267 to R269) changes
nothing of the block but the log; for every header row, and whatever the script of interruptions says, an entry of which the
run uses up. -/
def Obligations.DroppedPacketChangesNothing : Prop :=
  ∀ (i : Instr) (s : State), i.format = .hdr → s.tick = [] →
    let p := encode i
    let bad := xorAll p ≠ 0 ∨ typeOf p ∉ s.params.knownTypes ∨ versionOf p ∉ s.params.knownVersions
    let mine := s.cfgPromisc = true ∨ dstOf p = s.cfgAddr.extractLsb' 0 4 ∨ dstOf p = 15
    let s0 := (takeCut s).2
    (bad → exec i s = .next { s0 with
      out := s.out ++
        [if xorAll p ≠ 0 then .log .eXor [(xorAll p).toNat]
          else if typeOf p ∉ s.params.knownTypes then .log .eType [(typeOf p).toNat]
          else .log .eVersion [(versionOf p).toNat]] }) ∧
    (¬bad → ¬mine → exec i s = .next { s0 with out := s.out ++ [.log .wNotForMe [(dstOf p).toNat]] }) ∧
    (¬bad → mine → typeOf p ≠ s.params.tId → ∀ ks, s.knowns = false :: ks →
      exec i s = .next { s0 with
        knowns := ks,
        out := s.out ++
          [.regObserve p s.rx.quality, .log .wUnkSender [(srcOf p).toNat], .regUnknownSender (srcOf p)] })

/-- With codes 5, 6 and 7 assigned to no type, as with the decided codes, a packet of such a type is always dropped (R125
(a), R155). -/
def Obligations.ReservedTypeIsDropped : Prop :=
  ∀ (h : Hdr) (body : Buf) (s : State) (i : Instr), s.tick = [] → (∀ c ∈ s.params.knownTypes, c.toNat ≤ 4) →
    (i = .hdrReserved5 h body ∨ i = .hdrReserved6 h body ∨ i = .hdrReserved7 h body) →
    exec i s = .next { (takeCut s).2 with
      out := s.out ++
        [if xorAll (encode i) ≠ 0 then .log .eXor [(xorAll (encode i)).toNat]
          else .log .eType [(typeOf (encode i)).toNat]] }

/-- A packet of a known type that is neither `T_ID` nor `T_ACK` (with the decided codes: of the rows `T_PING`, `T_OTA` and
`T_DATA`), when it is not dropped, goes to its sender's tracker, what the tracker returns goes to the callback, and the packet
is acknowledged when it asks for it (R269, R270). For every header row. -/
def Obligations.MessagePacketReachesTracker : Prop :=
  ∀ (i : Instr) (s : State) (ks : List Bool) (cs : List (Option Nat)), i.format = .hdr → s.tick = [] →
    s.preempt = none :: cs →
    let p := encode i
    xorAll p = 0 → typeOf p ∈ s.params.knownTypes → typeOf p ≠ s.params.tId → typeOf p ≠ s.params.tAck →
    versionOf p ∈ s.params.knownVersions →
    (s.cfgPromisc = true ∨ dstOf p = s.cfgAddr.extractLsb' 0 4 ∨ dstOf p = 15) → s.knowns = true :: ks →
    ∃ (u : State) (c : Code) (r : Option (Buf × PType)),
      exec (.rtAccept (srcOf p) p) { s with preempt := cs, knowns := ks, out := s.out ++ [.regObserve p s.rx.quality] } =
        .next { u with out := u.out ++ [.result 0x20 c (.optMsg r)] } ∧
      let d : State := { u with out := u.out ++ (r.map fun m => Out.cbDeliver m.1 m.1.length m.2).toList }
      exec i s = .next (if qosOf p then enqueueAck p d else d)

/-- A `T_ACK` packet (with the decided codes: of the row `T_ACK`) that is not dropped retires the entry it names, or with an
empty payload is ignored; it is itself acknowledged when it asks for it (R269, R270). For every header row. -/
def Obligations.AckPacketRetiresEntry : Prop :=
  ∀ (i : Instr) (s : State) (ks : List Bool) (cs : List (Option Nat)), i.format = .hdr → s.tick = [] →
    s.preempt = none :: cs →
    let p := encode i
    xorAll p = 0 → typeOf p = s.params.tAck → s.params.tAck ≠ s.params.tId → versionOf p ∈ s.params.knownVersions →
    (s.cfgPromisc = true ∨ dstOf p = s.cfgAddr.extractLsb' 0 4 ∨ dstOf p = 15) → s.knowns = true :: ks →
    let s1 : State := { s with preempt := cs, knowns := ks, out := s.out ++ [.regObserve p s.rx.quality] }
    (payloadOf p = [] →
      let u : State := { s1 with out := s1.out ++ [.log .wAckEmpty [(srcOf p).toNat]] }
      exec i s = .next (if qosOf p then enqueueAck p u else u)) ∧
    ∀ (n : Byte) (rest : Buf), payloadOf p = n :: rest →
      ∃ u, exec (.ackp n) { s1 with rx := { s.rx with sender := srcOf p } } = .next u ∧
        exec i s = .next (if qosOf p then enqueueAck p u else u)

/-- A `T_ID` packet (with the decided codes: of the row `T_ID`) that passed check and filter goes to the registry, whether or
not its sender is known (R269). For every header row. -/
def Obligations.IdPacketGoesToRegistry : Prop :=
  ∀ (i : Instr) (s : State) (known : Bool) (ks : List Bool) (cs : List (Option Nat)), i.format = .hdr → s.tick = [] →
    s.preempt = none :: cs →
    let p := encode i
    xorAll p = 0 → typeOf p = s.params.tId → versionOf p ∈ s.params.knownVersions →
    (s.cfgPromisc = true ∨ dstOf p = s.cfgAddr.extractLsb' 0 4 ∨ dstOf p = 15) → s.knowns = known :: ks →
    let u : State := { s with
      preempt := cs, knowns := ks, out := s.out ++ [.regObserve p s.rx.quality, .regIdPacket p] }
    exec i s = .next (if qosOf p then enqueueAck p u else u)

/-- The acknowledgement (R270, R122): at most one new entry, at HIGHEST, a best-effort `T_ACK` packet whose payload is the
number, from this host to the packet's source; `F_FORCE` is set exactly when it was queued. -/
def Obligations.AcknowledgementIsQueued : Prop :=
  ∀ (p : Buf) (s : State), 21 ≤ s.params.mtu →
    let a := buildPkt s.params.versionCur s.cfgKeyEn [seqOf p] s.params.tAck false false (s.cfgAddr.extractLsb' 0 4) (srcOf p)
    ((∃ d, s.params.qDepth = some d ∧ d ≤ s.tq.length) →
      enqueueAck p s = { s with
        flt := s.flt ||| 0x02, lock := .free, out := s.out ++ [.log .eQovf [s.tq.length]] }) ∧
    ((∀ d ∈ s.params.qDepth, s.tq.length < d) → ∃ (before after : List Entry) (ls : Ticks),
      s.tq = before ++ after ∧ (∀ x ∈ before, x.prio = .highest) ∧ (∀ x ∈ after.head?, x.prio ≠ .highest) ∧
      enqueueAck p s = { s with
        tq := before ++ ⟨a, srcOf p, .highest, 0, ls, s.cfgTimeout, s.cfgMaxRetry, false⟩ :: after,
        fForce := true, free := s.free + 1, lock := .free })

/-! ## Sending, reset, configuration -/

/-- `LS.SEND` accepted (R279): one LOW entry per fragment, at the tail, in order. Interrupted between its enqueues (R87), in any
way the script or the free choice after it says, and resumed with nothing in between, it ends as the uncut send; the model's
form of the interruption is log entry 12. A resumed send whose next fragment finds the queue at its depth answers `false` with
`E_QOVF`, and the fragments already enqueued stay (R279, R386). -/
def Obligations.LsSendQueuesFragments : Prop :=
  (∀ (data : Buf) (type : PType) (dest : Byte) (requireAck allowDrop : Bool) (s : State) (cs : List (Option Nat)),
    s.preempt = none :: cs → data ≠ [] → dest.toNat ≤ 15 → type ∈ s.params.knownTypes →
    ¬(allowDrop = true ∧ type ∉ s.params.exemptTypes ∧ s.params.qCap ≤ s.tq.length) →
    (∀ d ∈ s.params.qDepth, s.tq.length + (data.length + s.params.maxPayload - 1) / s.params.maxPayload ≤ d) →
    ∃ es : List Entry,
      es.map (·.pkt) =
        fragPkts s data type requireAck (s.cfgAddr.extractLsb' 0 4) (dest.extractLsb' 0 4) ∧
      (∀ e ∈ es, e.dest = dest.extractLsb' 0 4 ∧ e.prio = .low ∧ e.sentCount = 0 ∧ e.timeout = s.cfgTimeout ∧
        e.maxRetry = s.cfgMaxRetry ∧ e.seqAssigned = false) ∧
      exec (.lsSend data type dest requireAck allowDrop) s = .next { s with
        preempt := cs, tq := s.tq ++ es, free := s.free + es.length, lock := .free,
        out := s.out ++ [.result 0x31 .ok (.bool true)] }) ∧
  (∀ (data : Buf) (type : PType) (dest : Byte) (requireAck allowDrop : Bool) (s : State),
    let i := Instr.lsSend data type dest requireAck allowDrop
    ∃ (k : Nat) (t u : State), exec i s = .next t ∧ exec i { s with preempt := [none] } = .next u ∧
      ((resumeSend s.sends.length)^[k] t).sends = s.sends ∧
      { (resumeSend s.sends.length)^[k] t with preempt := [], choices := 0 } = { u with preempt := [], choices := 0 }) ∧
  ∀ (s : State) (k d who : Nat) (p : Buf) (ps : List Buf) (dest : Addr), s.sends[k]? = some ⟨p :: ps, dest, who⟩ →
    5 ≤ p.length → p.length ≤ s.params.mtu → s.params.qDepth = some d → d ≤ s.tq.length →
    resumeSend k s = { (takeCut s).2 with
      sends := s.sends.eraseIdx k, flt := s.flt ||| 0x02, lock := .free,
      out := s.out ++ [.log .eQovf [s.tq.length], .result 0x31 .eQovf (.bool false)] }

/-- `LS.SEND` refused (R279, R324 (i)): empty, destination, type, cap, depth, in this order; the queue is unchanged. -/
def Obligations.LsSendRefusals : Prop :=
  ∀ (data : Buf) (type : PType) (dest : Byte) (requireAck allowDrop : Bool) (s : State),
    let capped := allowDrop = true ∧ type ∉ s.params.exemptTypes ∧ s.params.qCap ≤ s.tq.length
    let full := ∃ d, s.params.qDepth = some d ∧
      d < s.tq.length + (data.length + s.params.maxPayload - 1) / s.params.maxPayload
    let answer := fun (c : Code) => Out.result 0x31 c (.bool false)
    let run := exec (.lsSend data type dest requireAck allowDrop) s
    (data = [] → run = .next { s with out := s.out ++ [answer .eEmpty] }) ∧
    (data ≠ [] → 15 < dest.toNat → run = .next { s with out := s.out ++ [answer .eBadCmd] }) ∧
    (data ≠ [] → dest.toNat ≤ 15 → type ∉ s.params.knownTypes → run = .next { s with out := s.out ++ [answer .eType] }) ∧
    (data ≠ [] → dest.toNat ≤ 15 → type ∈ s.params.knownTypes → capped →
      run = .next { s with lock := .free, out := s.out ++ [answer .eQfull] }) ∧
    (data ≠ [] → dest.toNat ≤ 15 → type ∈ s.params.knownTypes → ¬capped → full →
      run = .next { s with
        lock := .free, flt := s.flt ||| 0x02, out := s.out ++ [.log .eQovf [s.tq.length], answer .eQovf] })

/-- `LS.RESET` (R281, R370 (b)): everything but the configuration at its reset value. That ports, inputs and the counters of
free values are untouched is the model's choice (log entry 11). The registers whose reset value is unspecified are not
mentioned. -/
def Obligations.LsResetClearsBlock : Prop :=
  ∀ s : State, s.tick = [] → s.sends = [] → ∃ t, exec .lsReset s = .next t ∧
    t.st = .init ∧ t.tq = [] ∧ t.flt = 0 ∧ t.fListen = false ∧ t.fForce = false ∧ t.fTxSeen = false ∧ t.lock = .free ∧
    (∀ a : Addr, (t.seq[a.toNat]'a.isLt) = 0 ∧ (t.rt[a.toNat]'a.isLt).lastValid = false ∧
      (t.rt[a.toNat]'a.isLt).frags = []) ∧
    t.cfgAddr = s.cfgAddr ∧ t.cfgSf = s.cfgSf ∧ t.cfgKeyEn = s.cfgKeyEn ∧ t.cfgKey = s.cfgKey ∧
    t.cfgTimeout = s.cfgTimeout ∧ t.cfgMaxRetry = s.cfgMaxRetry ∧ t.cfgPromisc = s.cfgPromisc ∧ t.params = s.params ∧
    t.tick = [] ∧ t.sends = [] ∧ t.port = s.port ∧ t.issuer = s.issuer ∧ t.tickIssuer = s.tickIssuer ∧
    t.polls = s.polls ∧ t.txAnswers = s.txAnswers ∧ t.initAnswers = s.initAnswers ∧ t.knowns = s.knowns ∧ t.draws = s.draws ∧ t.preempt = s.preempt ∧ t.turns = s.turns ∧
    t.free = s.free ∧ t.choices = s.choices ∧ t.out = s.out ++ [.result 0x32 .ok .none]

/-- What the model stops on, and only there: a tick, a handler or an inbound procedure started while a tick is in progress
(the model's choice, log entry 14), and `LS.RESET` in the middle of an operation (R371, log entry 15). -/
def Obligations.StopsOnlyMidOperation : Prop :=
  ∀ (i : Instr) (s : State),
    (i = .lsReset → (exec i s = .refused .resetMidOperation ↔ ¬(s.tick = [] ∧ s.sends = []))) ∧
    ((i.format = .hdr ∨ i.format = .state ∨ ∃ n, i = .lsTick n) → (exec i s = .fault .tickOverlap ↔ s.tick ≠ [])) ∧
    (answersNext (exec i s) = false →
      exec i s = .refused .resetMidOperation ∧ i = .lsReset ∨
      exec i s = .fault .tickOverlap ∧ (i.format = .hdr ∨ i.format = .state ∨ ∃ n, i = .lsTick n))

/-- `CFG.WR` (R282, R37): bad register, locked, value not legal, in this order; else the register is written and nothing else.
A value is legal when it fits the register's width, a selector has a `MIN_LISTEN` entry, a retry budget is at most 254. -/
def Obligations.CfgWrResult : Prop :=
  ∀ (reg : CfgReg) (v : Nat) (s : State),
    let locked := reg ≠ .addr ∧ ¬(s.st = .init ∧ s.tq = [])
    let illegal := 2 ^ reg.width ≤ v ∨ reg = .sf ∧ (∀ h : v < 8, s.params.minListen[v] = none) ∨ reg = .maxRetry ∧ v = 255
    (reg = .flt →
      exec (.cfgWr reg v) s = .next { s with lock := .free, out := s.out ++ [.result 0x38 .eBadCmd .none] }) ∧
    (reg ≠ .flt → locked →
      exec (.cfgWr reg v) s = .next { s with lock := .free, out := s.out ++ [.result 0x38 .eCfgLock .none] }) ∧
    (reg ≠ .flt → ¬locked → illegal →
      exec (.cfgWr reg v) s = .next { s with lock := .free, out := s.out ++ [.result 0x38 .eBadCfg .none] }) ∧
    (reg ≠ .flt → ¬locked → ¬illegal →
      exec (.cfgWr reg v) s = .next { s with
        cfgAddr := if reg = .addr then BitVec.ofNat 8 v else s.cfgAddr,
        cfgSf := if reg = .sf then BitVec.ofNat 3 v else s.cfgSf,
        cfgKeyEn := if reg = .keyEn then decide (v = 1) else s.cfgKeyEn,
        cfgKey := if reg = .key then BitVec.ofNat 256 v else s.cfgKey,
        cfgTimeout := if reg = .timeout then BitVec.ofNat 32 v else s.cfgTimeout,
        cfgMaxRetry := if reg = .maxRetry then BitVec.ofNat 8 v else s.cfgMaxRetry,
        cfgPromisc := if reg = .promisc then decide (v = 1) else s.cfgPromisc,
        lock := .free, out := s.out ++ [.result 0x38 .ok .none] })

/-- `CFG.RD` (R283): the register's value; the key is write-only; register 7 is `FLT`; no side effect. -/
def Obligations.CfgRdResult : Prop :=
  ∀ (reg : CfgReg) (s : State),
    exec (.cfgRd reg) s = .next { s with
      out := s.out ++
        [match reg with
          | .addr => .result 0x39 .ok (.value (s.cfgAddr.setWidth 256))
          | .sf => .result 0x39 .ok (.value (s.cfgSf.setWidth 256))
          | .keyEn => .result 0x39 .ok (.value (if s.cfgKeyEn then 1 else 0))
          | .key => .result 0x39 .eBadCmd .none
          | .timeout => .result 0x39 .ok (.value (s.cfgTimeout.setWidth 256))
          | .maxRetry => .result 0x39 .ok (.value (s.cfgMaxRetry.setWidth 256))
          | .promisc => .result 0x39 .ok (.value (if s.cfgPromisc then 1 else 0))
          | .flt => .result 0x39 .ok (.value (s.flt.setWidth 256))] }

/-! ## The whole machine -/

/-- A sequence counter is written only where `TQ.NEXT` runs: by it, by the `TRANSMITTING` handler (of its row, of `LS.TICK`, of a
tick that goes on), and by reset (R31). A tracker is touched only where `RT.ACCEPT` runs: by it, by the header rows, by the
`LISTENING` handler, and cleared only by reset (R40). Said of operations, and of every step of the machine. -/
def Obligations.CountersAndTrackersPrivate : Prop :=
  (∀ (i : Instr) (s t : State), exec i s = .next t → i ≠ .lsReset →
    ((∀ n, i ≠ .tqNext n) → (∀ n, i ≠ .stTransmitting n) → (s.st = .transmitting → ∀ n, i ≠ .lsTick n) → t.seq = s.seq) ∧
    ((∀ a p, i ≠ .rtAccept a p) → i.format ≠ .hdr → (∀ n, i ≠ .stListening n) →
      (s.st = .listening → ∀ n, i ≠ .lsTick n) → t.rt = s.rt)) ∧
  ∀ s t : State, step s = .next t → ¬stepRuns .lsReset s →
    ((∀ n, ¬stepRuns (.tqNext n) s) → (∀ n, ¬stepRuns (.stTransmitting n) s) →
      (s.st = .transmitting → ∀ n, ¬stepRuns (.lsTick n) s) →
      ((nextTurn s).1 = .tick → ∀ n, .next n ∉ s.tick ∧ .handler n ∉ s.tick.tail ∧
        (s.st = .transmitting → s.tick.head? ≠ some (.handler n))) → t.seq = s.seq) ∧
    ((∀ a p, ¬stepRuns (.rtAccept a p) s) → (∀ i, i.format = .hdr → ¬stepRuns i s) → (∀ n, ¬stepRuns (.stListening n) s) →
      (s.st = .listening → ∀ n, ¬stepRuns (.lsTick n) s) →
      ((nextTurn s).1 = .tick → .poll ∉ s.tick ∧ (∀ p, .route p ∉ s.tick ∧ .accept p ∉ s.tick) ∧
        ∀ n, .handler n ∉ s.tick.tail ∧ (s.st = .listening → s.tick.head? ≠ some (.handler n))) → t.rt = s.rt)

/-- The scheduler's state, time registers and flags are not touched by any command but `LS.TICK` and `LS.RESET` (R32, R33,
R34), nor by an acknowledgement payload or a priority row, nor by a step in which an `LS.SEND` goes on. -/
def Obligations.SchedulerStatePrivate : Prop :=
  ∀ s t : State,
    ((∃ i, exec i s = .next t ∧ i.format ≠ .hdr ∧ i.format ≠ .state ∧ (∀ n, i ≠ .lsTick n) ∧ i ≠ .lsReset) ∨
      (step s = .next t ∧ ∃ k, (nextTurn s).1 = .send k)) →
    t.st = s.st ∧ t.tListen = s.tListen ∧ t.jit = s.jit ∧ t.tRx = s.tRx ∧ t.tTx = s.tTx ∧
      t.fListen = s.fListen ∧ t.fForce = s.fForce ∧ t.fTxSeen = s.fTxSeen ∧ t.tick = s.tick

/-- `FLT` bits stay set except by reset (R35, R327), no operation changes the parameters, and only `CFG.WR` writes the
configuration registers (R37, R281). Said of operations, and of every step of the machine. -/
def Obligations.FltStickyAndConfigPrivate : Prop :=
  let sameConfig := fun s t : State => t.cfgAddr = s.cfgAddr ∧ t.cfgSf = s.cfgSf ∧ t.cfgKeyEn = s.cfgKeyEn ∧
    t.cfgKey = s.cfgKey ∧ t.cfgTimeout = s.cfgTimeout ∧ t.cfgMaxRetry = s.cfgMaxRetry ∧ t.cfgPromisc = s.cfgPromisc
  (∀ (i : Instr) (s t : State), exec i s = .next t →
    (i ≠ .lsReset → t.flt &&& s.flt = s.flt) ∧ t.params = s.params ∧ ((∀ r v, i ≠ .cfgWr r v) → sameConfig s t)) ∧
  ∀ s t : State, step s = .next t →
    (¬stepRuns .lsReset s → t.flt &&& s.flt = s.flt) ∧ t.params = s.params ∧
    ((∀ r v, ¬stepRuns (.cfgWr r v) s) → sameConfig s t)

/-- The invariant holds after reset. -/
def Obligations.ResetMeetsInvariant : Prop := State.reset.Inv

/-- Every step keeps the invariant: the queue's order and depth, entries of 5 to `MTU` bytes with at most `max_retry + 1`
attempts, sealed once numbered, bounded fragment buffers, the reserved `FLT` bits 0, a legal `CFG_MAXRETRY`, a free lock. -/
def Obligations.StepKeepsInvariant : Prop :=
  ∀ s t : State, s.Inv → step s = .next t → t.Inv

end ObligationStatements
end

