-- ==== Sys2Proof/Laws/State.lean ====
section
/-! SUPPORT. The field lemmas of the named state updates: one per field and update, true by unfolding. -/

namespace Sys2Proof.Machine

/-! ## `emit` -/

@[simp] theorem emit_st (o : Out) (s : State) : (emit o s).st = s.st := rfl
@[simp] theorem emit_seq (o : Out) (s : State) : (emit o s).seq = s.seq := rfl
@[simp] theorem emit_tListen (o : Out) (s : State) : (emit o s).tListen = s.tListen := rfl
@[simp] theorem emit_jit (o : Out) (s : State) : (emit o s).jit = s.jit := rfl
@[simp] theorem emit_tRx (o : Out) (s : State) : (emit o s).tRx = s.tRx := rfl
@[simp] theorem emit_tTx (o : Out) (s : State) : (emit o s).tTx = s.tTx := rfl
@[simp] theorem emit_fListen (o : Out) (s : State) : (emit o s).fListen = s.fListen := rfl
@[simp] theorem emit_fForce (o : Out) (s : State) : (emit o s).fForce = s.fForce := rfl
@[simp] theorem emit_fTxSeen (o : Out) (s : State) : (emit o s).fTxSeen = s.fTxSeen := rfl
@[simp] theorem emit_flt (o : Out) (s : State) : (emit o s).flt = s.flt := rfl
@[simp] theorem emit_cfgAddr (o : Out) (s : State) : (emit o s).cfgAddr = s.cfgAddr := rfl
@[simp] theorem emit_cfgSf (o : Out) (s : State) : (emit o s).cfgSf = s.cfgSf := rfl
@[simp] theorem emit_cfgKeyEn (o : Out) (s : State) : (emit o s).cfgKeyEn = s.cfgKeyEn := rfl
@[simp] theorem emit_cfgKey (o : Out) (s : State) : (emit o s).cfgKey = s.cfgKey := rfl
@[simp] theorem emit_cfgTimeout (o : Out) (s : State) : (emit o s).cfgTimeout = s.cfgTimeout := rfl
@[simp] theorem emit_cfgMaxRetry (o : Out) (s : State) : (emit o s).cfgMaxRetry = s.cfgMaxRetry := rfl
@[simp] theorem emit_cfgPromisc (o : Out) (s : State) : (emit o s).cfgPromisc = s.cfgPromisc := rfl
@[simp] theorem emit_tq (o : Out) (s : State) : (emit o s).tq = s.tq := rfl
@[simp] theorem emit_rt (o : Out) (s : State) : (emit o s).rt = s.rt := rfl
@[simp] theorem emit_lock (o : Out) (s : State) : (emit o s).lock = s.lock := rfl
@[simp] theorem emit_tick (o : Out) (s : State) : (emit o s).tick = s.tick := rfl
@[simp] theorem emit_sends (o : Out) (s : State) : (emit o s).sends = s.sends := rfl
@[simp] theorem emit_params (o : Out) (s : State) : (emit o s).params = s.params := rfl
@[simp] theorem emit_port (o : Out) (s : State) : (emit o s).port = s.port := rfl
@[simp] theorem emit_issuer (o : Out) (s : State) : (emit o s).issuer = s.issuer := rfl
@[simp] theorem emit_tickIssuer (o : Out) (s : State) : (emit o s).tickIssuer = s.tickIssuer := rfl
@[simp] theorem emit_polls (o : Out) (s : State) : (emit o s).polls = s.polls := rfl
@[simp] theorem emit_txAnswers (o : Out) (s : State) : (emit o s).txAnswers = s.txAnswers := rfl
@[simp] theorem emit_initAnswers (o : Out) (s : State) : (emit o s).initAnswers = s.initAnswers := rfl
@[simp] theorem emit_knowns (o : Out) (s : State) : (emit o s).knowns = s.knowns := rfl
@[simp] theorem emit_draws (o : Out) (s : State) : (emit o s).draws = s.draws := rfl
@[simp] theorem emit_preempt (o : Out) (s : State) : (emit o s).preempt = s.preempt := rfl
@[simp] theorem emit_turns (o : Out) (s : State) : (emit o s).turns = s.turns := rfl
@[simp] theorem emit_rx (o : Out) (s : State) : (emit o s).rx = s.rx := rfl
@[simp] theorem emit_free (o : Out) (s : State) : (emit o s).free = s.free := rfl
@[simp] theorem emit_choices (o : Out) (s : State) : (emit o s).choices = s.choices := rfl
@[simp] theorem emit_out (o : Out) (s : State) : (emit o s).out = s.out ++ [o] := rfl

/-! ## `logRec` -/

@[simp] theorem logRec_st (c : Code) (info : List Nat) (s : State) : (logRec c info s).st = s.st := rfl
@[simp] theorem logRec_seq (c : Code) (info : List Nat) (s : State) : (logRec c info s).seq = s.seq := rfl
@[simp] theorem logRec_tListen (c : Code) (info : List Nat) (s : State) : (logRec c info s).tListen = s.tListen := rfl
@[simp] theorem logRec_jit (c : Code) (info : List Nat) (s : State) : (logRec c info s).jit = s.jit := rfl
@[simp] theorem logRec_tRx (c : Code) (info : List Nat) (s : State) : (logRec c info s).tRx = s.tRx := rfl
@[simp] theorem logRec_tTx (c : Code) (info : List Nat) (s : State) : (logRec c info s).tTx = s.tTx := rfl
@[simp] theorem logRec_fListen (c : Code) (info : List Nat) (s : State) : (logRec c info s).fListen = s.fListen := rfl
@[simp] theorem logRec_fForce (c : Code) (info : List Nat) (s : State) : (logRec c info s).fForce = s.fForce := rfl
@[simp] theorem logRec_fTxSeen (c : Code) (info : List Nat) (s : State) : (logRec c info s).fTxSeen = s.fTxSeen := rfl
@[simp] theorem logRec_flt (c : Code) (info : List Nat) (s : State) : (logRec c info s).flt = s.flt := rfl
@[simp] theorem logRec_cfgAddr (c : Code) (info : List Nat) (s : State) : (logRec c info s).cfgAddr = s.cfgAddr := rfl
@[simp] theorem logRec_cfgSf (c : Code) (info : List Nat) (s : State) : (logRec c info s).cfgSf = s.cfgSf := rfl
@[simp] theorem logRec_cfgKeyEn (c : Code) (info : List Nat) (s : State) : (logRec c info s).cfgKeyEn = s.cfgKeyEn := rfl
@[simp] theorem logRec_cfgKey (c : Code) (info : List Nat) (s : State) : (logRec c info s).cfgKey = s.cfgKey := rfl
@[simp] theorem logRec_cfgTimeout (c : Code) (info : List Nat) (s : State) : (logRec c info s).cfgTimeout = s.cfgTimeout := rfl
@[simp] theorem logRec_cfgMaxRetry (c : Code) (info : List Nat) (s : State) : (logRec c info s).cfgMaxRetry = s.cfgMaxRetry := rfl
@[simp] theorem logRec_cfgPromisc (c : Code) (info : List Nat) (s : State) : (logRec c info s).cfgPromisc = s.cfgPromisc := rfl
@[simp] theorem logRec_tq (c : Code) (info : List Nat) (s : State) : (logRec c info s).tq = s.tq := rfl
@[simp] theorem logRec_rt (c : Code) (info : List Nat) (s : State) : (logRec c info s).rt = s.rt := rfl
@[simp] theorem logRec_lock (c : Code) (info : List Nat) (s : State) : (logRec c info s).lock = s.lock := rfl
@[simp] theorem logRec_tick (c : Code) (info : List Nat) (s : State) : (logRec c info s).tick = s.tick := rfl
@[simp] theorem logRec_sends (c : Code) (info : List Nat) (s : State) : (logRec c info s).sends = s.sends := rfl
@[simp] theorem logRec_params (c : Code) (info : List Nat) (s : State) : (logRec c info s).params = s.params := rfl
@[simp] theorem logRec_port (c : Code) (info : List Nat) (s : State) : (logRec c info s).port = s.port := rfl
@[simp] theorem logRec_issuer (c : Code) (info : List Nat) (s : State) : (logRec c info s).issuer = s.issuer := rfl
@[simp] theorem logRec_tickIssuer (c : Code) (info : List Nat) (s : State) : (logRec c info s).tickIssuer = s.tickIssuer := rfl
@[simp] theorem logRec_polls (c : Code) (info : List Nat) (s : State) : (logRec c info s).polls = s.polls := rfl
@[simp] theorem logRec_txAnswers (c : Code) (info : List Nat) (s : State) : (logRec c info s).txAnswers = s.txAnswers := rfl
@[simp] theorem logRec_initAnswers (c : Code) (info : List Nat) (s : State) : (logRec c info s).initAnswers = s.initAnswers := rfl
@[simp] theorem logRec_knowns (c : Code) (info : List Nat) (s : State) : (logRec c info s).knowns = s.knowns := rfl
@[simp] theorem logRec_draws (c : Code) (info : List Nat) (s : State) : (logRec c info s).draws = s.draws := rfl
@[simp] theorem logRec_preempt (c : Code) (info : List Nat) (s : State) : (logRec c info s).preempt = s.preempt := rfl
@[simp] theorem logRec_turns (c : Code) (info : List Nat) (s : State) : (logRec c info s).turns = s.turns := rfl
@[simp] theorem logRec_rx (c : Code) (info : List Nat) (s : State) : (logRec c info s).rx = s.rx := rfl
@[simp] theorem logRec_free (c : Code) (info : List Nat) (s : State) : (logRec c info s).free = s.free := rfl
@[simp] theorem logRec_choices (c : Code) (info : List Nat) (s : State) : (logRec c info s).choices = s.choices := rfl
@[simp] theorem logRec_out (c : Code) (info : List Nat) (s : State) : (logRec c info s).out = s.out ++ [.log c info] := rfl

/-! ## `raise` -/

@[simp] theorem raise_st (c : Code) (info : List Nat) (s : State) : (raise c info s).st = s.st := rfl
@[simp] theorem raise_seq (c : Code) (info : List Nat) (s : State) : (raise c info s).seq = s.seq := rfl
@[simp] theorem raise_tListen (c : Code) (info : List Nat) (s : State) : (raise c info s).tListen = s.tListen := rfl
@[simp] theorem raise_jit (c : Code) (info : List Nat) (s : State) : (raise c info s).jit = s.jit := rfl
@[simp] theorem raise_tRx (c : Code) (info : List Nat) (s : State) : (raise c info s).tRx = s.tRx := rfl
@[simp] theorem raise_tTx (c : Code) (info : List Nat) (s : State) : (raise c info s).tTx = s.tTx := rfl
@[simp] theorem raise_fListen (c : Code) (info : List Nat) (s : State) : (raise c info s).fListen = s.fListen := rfl
@[simp] theorem raise_fForce (c : Code) (info : List Nat) (s : State) : (raise c info s).fForce = s.fForce := rfl
@[simp] theorem raise_fTxSeen (c : Code) (info : List Nat) (s : State) : (raise c info s).fTxSeen = s.fTxSeen := rfl
@[simp] theorem raise_flt (c : Code) (info : List Nat) (s : State) : (raise c info s).flt = s.flt ||| fltMask c := rfl
@[simp] theorem raise_cfgAddr (c : Code) (info : List Nat) (s : State) : (raise c info s).cfgAddr = s.cfgAddr := rfl
@[simp] theorem raise_cfgSf (c : Code) (info : List Nat) (s : State) : (raise c info s).cfgSf = s.cfgSf := rfl
@[simp] theorem raise_cfgKeyEn (c : Code) (info : List Nat) (s : State) : (raise c info s).cfgKeyEn = s.cfgKeyEn := rfl
@[simp] theorem raise_cfgKey (c : Code) (info : List Nat) (s : State) : (raise c info s).cfgKey = s.cfgKey := rfl
@[simp] theorem raise_cfgTimeout (c : Code) (info : List Nat) (s : State) : (raise c info s).cfgTimeout = s.cfgTimeout := rfl
@[simp] theorem raise_cfgMaxRetry (c : Code) (info : List Nat) (s : State) : (raise c info s).cfgMaxRetry = s.cfgMaxRetry := rfl
@[simp] theorem raise_cfgPromisc (c : Code) (info : List Nat) (s : State) : (raise c info s).cfgPromisc = s.cfgPromisc := rfl
@[simp] theorem raise_tq (c : Code) (info : List Nat) (s : State) : (raise c info s).tq = s.tq := rfl
@[simp] theorem raise_rt (c : Code) (info : List Nat) (s : State) : (raise c info s).rt = s.rt := rfl
@[simp] theorem raise_lock (c : Code) (info : List Nat) (s : State) : (raise c info s).lock = s.lock := rfl
@[simp] theorem raise_tick (c : Code) (info : List Nat) (s : State) : (raise c info s).tick = s.tick := rfl
@[simp] theorem raise_sends (c : Code) (info : List Nat) (s : State) : (raise c info s).sends = s.sends := rfl
@[simp] theorem raise_params (c : Code) (info : List Nat) (s : State) : (raise c info s).params = s.params := rfl
@[simp] theorem raise_port (c : Code) (info : List Nat) (s : State) : (raise c info s).port = s.port := rfl
@[simp] theorem raise_issuer (c : Code) (info : List Nat) (s : State) : (raise c info s).issuer = s.issuer := rfl
@[simp] theorem raise_tickIssuer (c : Code) (info : List Nat) (s : State) : (raise c info s).tickIssuer = s.tickIssuer := rfl
@[simp] theorem raise_polls (c : Code) (info : List Nat) (s : State) : (raise c info s).polls = s.polls := rfl
@[simp] theorem raise_txAnswers (c : Code) (info : List Nat) (s : State) : (raise c info s).txAnswers = s.txAnswers := rfl
@[simp] theorem raise_initAnswers (c : Code) (info : List Nat) (s : State) : (raise c info s).initAnswers = s.initAnswers := rfl
@[simp] theorem raise_knowns (c : Code) (info : List Nat) (s : State) : (raise c info s).knowns = s.knowns := rfl
@[simp] theorem raise_draws (c : Code) (info : List Nat) (s : State) : (raise c info s).draws = s.draws := rfl
@[simp] theorem raise_preempt (c : Code) (info : List Nat) (s : State) : (raise c info s).preempt = s.preempt := rfl
@[simp] theorem raise_turns (c : Code) (info : List Nat) (s : State) : (raise c info s).turns = s.turns := rfl
@[simp] theorem raise_rx (c : Code) (info : List Nat) (s : State) : (raise c info s).rx = s.rx := rfl
@[simp] theorem raise_free (c : Code) (info : List Nat) (s : State) : (raise c info s).free = s.free := rfl
@[simp] theorem raise_choices (c : Code) (info : List Nat) (s : State) : (raise c info s).choices = s.choices := rfl
@[simp] theorem raise_out (c : Code) (info : List Nat) (s : State) : (raise c info s).out = s.out ++ [.log c info] := rfl

/-! ## `finish` -/

@[simp] theorem finish_st (op : Byte) (c : Code) (d : Data) (s : State) : (finish op c d s).st = s.st := rfl
@[simp] theorem finish_seq (op : Byte) (c : Code) (d : Data) (s : State) : (finish op c d s).seq = s.seq := rfl
@[simp] theorem finish_tListen (op : Byte) (c : Code) (d : Data) (s : State) : (finish op c d s).tListen = s.tListen := rfl
@[simp] theorem finish_jit (op : Byte) (c : Code) (d : Data) (s : State) : (finish op c d s).jit = s.jit := rfl
@[simp] theorem finish_tRx (op : Byte) (c : Code) (d : Data) (s : State) : (finish op c d s).tRx = s.tRx := rfl
@[simp] theorem finish_tTx (op : Byte) (c : Code) (d : Data) (s : State) : (finish op c d s).tTx = s.tTx := rfl
@[simp] theorem finish_fListen (op : Byte) (c : Code) (d : Data) (s : State) : (finish op c d s).fListen = s.fListen := rfl
@[simp] theorem finish_fForce (op : Byte) (c : Code) (d : Data) (s : State) : (finish op c d s).fForce = s.fForce := rfl
@[simp] theorem finish_fTxSeen (op : Byte) (c : Code) (d : Data) (s : State) : (finish op c d s).fTxSeen = s.fTxSeen := rfl
@[simp] theorem finish_flt (op : Byte) (c : Code) (d : Data) (s : State) : (finish op c d s).flt = s.flt := rfl
@[simp] theorem finish_cfgAddr (op : Byte) (c : Code) (d : Data) (s : State) : (finish op c d s).cfgAddr = s.cfgAddr := rfl
@[simp] theorem finish_cfgSf (op : Byte) (c : Code) (d : Data) (s : State) : (finish op c d s).cfgSf = s.cfgSf := rfl
@[simp] theorem finish_cfgKeyEn (op : Byte) (c : Code) (d : Data) (s : State) : (finish op c d s).cfgKeyEn = s.cfgKeyEn := rfl
@[simp] theorem finish_cfgKey (op : Byte) (c : Code) (d : Data) (s : State) : (finish op c d s).cfgKey = s.cfgKey := rfl
@[simp] theorem finish_cfgTimeout (op : Byte) (c : Code) (d : Data) (s : State) : (finish op c d s).cfgTimeout = s.cfgTimeout := rfl
@[simp] theorem finish_cfgMaxRetry (op : Byte) (c : Code) (d : Data) (s : State) : (finish op c d s).cfgMaxRetry = s.cfgMaxRetry := rfl
@[simp] theorem finish_cfgPromisc (op : Byte) (c : Code) (d : Data) (s : State) : (finish op c d s).cfgPromisc = s.cfgPromisc := rfl
@[simp] theorem finish_tq (op : Byte) (c : Code) (d : Data) (s : State) : (finish op c d s).tq = s.tq := rfl
@[simp] theorem finish_rt (op : Byte) (c : Code) (d : Data) (s : State) : (finish op c d s).rt = s.rt := rfl
@[simp] theorem finish_lock (op : Byte) (c : Code) (d : Data) (s : State) : (finish op c d s).lock = s.lock := rfl
@[simp] theorem finish_tick (op : Byte) (c : Code) (d : Data) (s : State) : (finish op c d s).tick = s.tick := rfl
@[simp] theorem finish_sends (op : Byte) (c : Code) (d : Data) (s : State) : (finish op c d s).sends = s.sends := rfl
@[simp] theorem finish_params (op : Byte) (c : Code) (d : Data) (s : State) : (finish op c d s).params = s.params := rfl
@[simp] theorem finish_port (op : Byte) (c : Code) (d : Data) (s : State) : (finish op c d s).port = s.port := rfl
@[simp] theorem finish_issuer (op : Byte) (c : Code) (d : Data) (s : State) : (finish op c d s).issuer = s.issuer := rfl
@[simp] theorem finish_tickIssuer (op : Byte) (c : Code) (d : Data) (s : State) : (finish op c d s).tickIssuer = s.tickIssuer := rfl
@[simp] theorem finish_polls (op : Byte) (c : Code) (d : Data) (s : State) : (finish op c d s).polls = s.polls := rfl
@[simp] theorem finish_txAnswers (op : Byte) (c : Code) (d : Data) (s : State) : (finish op c d s).txAnswers = s.txAnswers := rfl
@[simp] theorem finish_initAnswers (op : Byte) (c : Code) (d : Data) (s : State) : (finish op c d s).initAnswers = s.initAnswers := rfl
@[simp] theorem finish_knowns (op : Byte) (c : Code) (d : Data) (s : State) : (finish op c d s).knowns = s.knowns := rfl
@[simp] theorem finish_draws (op : Byte) (c : Code) (d : Data) (s : State) : (finish op c d s).draws = s.draws := rfl
@[simp] theorem finish_preempt (op : Byte) (c : Code) (d : Data) (s : State) : (finish op c d s).preempt = s.preempt := rfl
@[simp] theorem finish_turns (op : Byte) (c : Code) (d : Data) (s : State) : (finish op c d s).turns = s.turns := rfl
@[simp] theorem finish_rx (op : Byte) (c : Code) (d : Data) (s : State) : (finish op c d s).rx = s.rx := rfl
@[simp] theorem finish_free (op : Byte) (c : Code) (d : Data) (s : State) : (finish op c d s).free = s.free := rfl
@[simp] theorem finish_choices (op : Byte) (c : Code) (d : Data) (s : State) : (finish op c d s).choices = s.choices := rfl
@[simp] theorem finish_out (op : Byte) (c : Code) (d : Data) (s : State) : (finish op c d s).out = s.out ++ [.result op c d] := rfl

/-! ## `setSeq` -/

@[simp] theorem setSeq_st (d : Addr) (v : Byte) (s : State) : (setSeq d v s).st = s.st := rfl
@[simp] theorem setSeq_seq (d : Addr) (v : Byte) (s : State) : (setSeq d v s).seq = s.seq.set d.toNat v d.isLt := rfl
@[simp] theorem setSeq_tListen (d : Addr) (v : Byte) (s : State) : (setSeq d v s).tListen = s.tListen := rfl
@[simp] theorem setSeq_jit (d : Addr) (v : Byte) (s : State) : (setSeq d v s).jit = s.jit := rfl
@[simp] theorem setSeq_tRx (d : Addr) (v : Byte) (s : State) : (setSeq d v s).tRx = s.tRx := rfl
@[simp] theorem setSeq_tTx (d : Addr) (v : Byte) (s : State) : (setSeq d v s).tTx = s.tTx := rfl
@[simp] theorem setSeq_fListen (d : Addr) (v : Byte) (s : State) : (setSeq d v s).fListen = s.fListen := rfl
@[simp] theorem setSeq_fForce (d : Addr) (v : Byte) (s : State) : (setSeq d v s).fForce = s.fForce := rfl
@[simp] theorem setSeq_fTxSeen (d : Addr) (v : Byte) (s : State) : (setSeq d v s).fTxSeen = s.fTxSeen := rfl
@[simp] theorem setSeq_flt (d : Addr) (v : Byte) (s : State) : (setSeq d v s).flt = s.flt := rfl
@[simp] theorem setSeq_cfgAddr (d : Addr) (v : Byte) (s : State) : (setSeq d v s).cfgAddr = s.cfgAddr := rfl
@[simp] theorem setSeq_cfgSf (d : Addr) (v : Byte) (s : State) : (setSeq d v s).cfgSf = s.cfgSf := rfl
@[simp] theorem setSeq_cfgKeyEn (d : Addr) (v : Byte) (s : State) : (setSeq d v s).cfgKeyEn = s.cfgKeyEn := rfl
@[simp] theorem setSeq_cfgKey (d : Addr) (v : Byte) (s : State) : (setSeq d v s).cfgKey = s.cfgKey := rfl
@[simp] theorem setSeq_cfgTimeout (d : Addr) (v : Byte) (s : State) : (setSeq d v s).cfgTimeout = s.cfgTimeout := rfl
@[simp] theorem setSeq_cfgMaxRetry (d : Addr) (v : Byte) (s : State) : (setSeq d v s).cfgMaxRetry = s.cfgMaxRetry := rfl
@[simp] theorem setSeq_cfgPromisc (d : Addr) (v : Byte) (s : State) : (setSeq d v s).cfgPromisc = s.cfgPromisc := rfl
@[simp] theorem setSeq_tq (d : Addr) (v : Byte) (s : State) : (setSeq d v s).tq = s.tq := rfl
@[simp] theorem setSeq_rt (d : Addr) (v : Byte) (s : State) : (setSeq d v s).rt = s.rt := rfl
@[simp] theorem setSeq_lock (d : Addr) (v : Byte) (s : State) : (setSeq d v s).lock = s.lock := rfl
@[simp] theorem setSeq_tick (d : Addr) (v : Byte) (s : State) : (setSeq d v s).tick = s.tick := rfl
@[simp] theorem setSeq_sends (d : Addr) (v : Byte) (s : State) : (setSeq d v s).sends = s.sends := rfl
@[simp] theorem setSeq_params (d : Addr) (v : Byte) (s : State) : (setSeq d v s).params = s.params := rfl
@[simp] theorem setSeq_port (d : Addr) (v : Byte) (s : State) : (setSeq d v s).port = s.port := rfl
@[simp] theorem setSeq_issuer (d : Addr) (v : Byte) (s : State) : (setSeq d v s).issuer = s.issuer := rfl
@[simp] theorem setSeq_tickIssuer (d : Addr) (v : Byte) (s : State) : (setSeq d v s).tickIssuer = s.tickIssuer := rfl
@[simp] theorem setSeq_polls (d : Addr) (v : Byte) (s : State) : (setSeq d v s).polls = s.polls := rfl
@[simp] theorem setSeq_txAnswers (d : Addr) (v : Byte) (s : State) : (setSeq d v s).txAnswers = s.txAnswers := rfl
@[simp] theorem setSeq_initAnswers (d : Addr) (v : Byte) (s : State) : (setSeq d v s).initAnswers = s.initAnswers := rfl
@[simp] theorem setSeq_knowns (d : Addr) (v : Byte) (s : State) : (setSeq d v s).knowns = s.knowns := rfl
@[simp] theorem setSeq_draws (d : Addr) (v : Byte) (s : State) : (setSeq d v s).draws = s.draws := rfl
@[simp] theorem setSeq_preempt (d : Addr) (v : Byte) (s : State) : (setSeq d v s).preempt = s.preempt := rfl
@[simp] theorem setSeq_turns (d : Addr) (v : Byte) (s : State) : (setSeq d v s).turns = s.turns := rfl
@[simp] theorem setSeq_rx (d : Addr) (v : Byte) (s : State) : (setSeq d v s).rx = s.rx := rfl
@[simp] theorem setSeq_free (d : Addr) (v : Byte) (s : State) : (setSeq d v s).free = s.free := rfl
@[simp] theorem setSeq_choices (d : Addr) (v : Byte) (s : State) : (setSeq d v s).choices = s.choices := rfl
@[simp] theorem setSeq_out (d : Addr) (v : Byte) (s : State) : (setSeq d v s).out = s.out := rfl

/-! ## `setTracker` -/

@[simp] theorem setTracker_st (a : Addr) (t : Tracker) (s : State) : (setTracker a t s).st = s.st := rfl
@[simp] theorem setTracker_seq (a : Addr) (t : Tracker) (s : State) : (setTracker a t s).seq = s.seq := rfl
@[simp] theorem setTracker_tListen (a : Addr) (t : Tracker) (s : State) : (setTracker a t s).tListen = s.tListen := rfl
@[simp] theorem setTracker_jit (a : Addr) (t : Tracker) (s : State) : (setTracker a t s).jit = s.jit := rfl
@[simp] theorem setTracker_tRx (a : Addr) (t : Tracker) (s : State) : (setTracker a t s).tRx = s.tRx := rfl
@[simp] theorem setTracker_tTx (a : Addr) (t : Tracker) (s : State) : (setTracker a t s).tTx = s.tTx := rfl
@[simp] theorem setTracker_fListen (a : Addr) (t : Tracker) (s : State) : (setTracker a t s).fListen = s.fListen := rfl
@[simp] theorem setTracker_fForce (a : Addr) (t : Tracker) (s : State) : (setTracker a t s).fForce = s.fForce := rfl
@[simp] theorem setTracker_fTxSeen (a : Addr) (t : Tracker) (s : State) : (setTracker a t s).fTxSeen = s.fTxSeen := rfl
@[simp] theorem setTracker_flt (a : Addr) (t : Tracker) (s : State) : (setTracker a t s).flt = s.flt := rfl
@[simp] theorem setTracker_cfgAddr (a : Addr) (t : Tracker) (s : State) : (setTracker a t s).cfgAddr = s.cfgAddr := rfl
@[simp] theorem setTracker_cfgSf (a : Addr) (t : Tracker) (s : State) : (setTracker a t s).cfgSf = s.cfgSf := rfl
@[simp] theorem setTracker_cfgKeyEn (a : Addr) (t : Tracker) (s : State) : (setTracker a t s).cfgKeyEn = s.cfgKeyEn := rfl
@[simp] theorem setTracker_cfgKey (a : Addr) (t : Tracker) (s : State) : (setTracker a t s).cfgKey = s.cfgKey := rfl
@[simp] theorem setTracker_cfgTimeout (a : Addr) (t : Tracker) (s : State) : (setTracker a t s).cfgTimeout = s.cfgTimeout := rfl
@[simp] theorem setTracker_cfgMaxRetry (a : Addr) (t : Tracker) (s : State) : (setTracker a t s).cfgMaxRetry = s.cfgMaxRetry := rfl
@[simp] theorem setTracker_cfgPromisc (a : Addr) (t : Tracker) (s : State) : (setTracker a t s).cfgPromisc = s.cfgPromisc := rfl
@[simp] theorem setTracker_tq (a : Addr) (t : Tracker) (s : State) : (setTracker a t s).tq = s.tq := rfl
@[simp] theorem setTracker_rt (a : Addr) (t : Tracker) (s : State) : (setTracker a t s).rt = s.rt.set a.toNat t a.isLt := rfl
@[simp] theorem setTracker_lock (a : Addr) (t : Tracker) (s : State) : (setTracker a t s).lock = s.lock := rfl
@[simp] theorem setTracker_tick (a : Addr) (t : Tracker) (s : State) : (setTracker a t s).tick = s.tick := rfl
@[simp] theorem setTracker_sends (a : Addr) (t : Tracker) (s : State) : (setTracker a t s).sends = s.sends := rfl
@[simp] theorem setTracker_params (a : Addr) (t : Tracker) (s : State) : (setTracker a t s).params = s.params := rfl
@[simp] theorem setTracker_port (a : Addr) (t : Tracker) (s : State) : (setTracker a t s).port = s.port := rfl
@[simp] theorem setTracker_issuer (a : Addr) (t : Tracker) (s : State) : (setTracker a t s).issuer = s.issuer := rfl
@[simp] theorem setTracker_tickIssuer (a : Addr) (t : Tracker) (s : State) : (setTracker a t s).tickIssuer = s.tickIssuer := rfl
@[simp] theorem setTracker_polls (a : Addr) (t : Tracker) (s : State) : (setTracker a t s).polls = s.polls := rfl
@[simp] theorem setTracker_txAnswers (a : Addr) (t : Tracker) (s : State) : (setTracker a t s).txAnswers = s.txAnswers := rfl
@[simp] theorem setTracker_initAnswers (a : Addr) (t : Tracker) (s : State) : (setTracker a t s).initAnswers = s.initAnswers := rfl
@[simp] theorem setTracker_knowns (a : Addr) (t : Tracker) (s : State) : (setTracker a t s).knowns = s.knowns := rfl
@[simp] theorem setTracker_draws (a : Addr) (t : Tracker) (s : State) : (setTracker a t s).draws = s.draws := rfl
@[simp] theorem setTracker_preempt (a : Addr) (t : Tracker) (s : State) : (setTracker a t s).preempt = s.preempt := rfl
@[simp] theorem setTracker_turns (a : Addr) (t : Tracker) (s : State) : (setTracker a t s).turns = s.turns := rfl
@[simp] theorem setTracker_rx (a : Addr) (t : Tracker) (s : State) : (setTracker a t s).rx = s.rx := rfl
@[simp] theorem setTracker_free (a : Addr) (t : Tracker) (s : State) : (setTracker a t s).free = s.free := rfl
@[simp] theorem setTracker_choices (a : Addr) (t : Tracker) (s : State) : (setTracker a t s).choices = s.choices := rfl
@[simp] theorem setTracker_out (a : Addr) (t : Tracker) (s : State) : (setTracker a t s).out = s.out := rfl

/-! ## `release` -/

@[simp] theorem release_st (s : State) : (release s).st = s.st := rfl
@[simp] theorem release_seq (s : State) : (release s).seq = s.seq := rfl
@[simp] theorem release_tListen (s : State) : (release s).tListen = s.tListen := rfl
@[simp] theorem release_jit (s : State) : (release s).jit = s.jit := rfl
@[simp] theorem release_tRx (s : State) : (release s).tRx = s.tRx := rfl
@[simp] theorem release_tTx (s : State) : (release s).tTx = s.tTx := rfl
@[simp] theorem release_fListen (s : State) : (release s).fListen = s.fListen := rfl
@[simp] theorem release_fForce (s : State) : (release s).fForce = s.fForce := rfl
@[simp] theorem release_fTxSeen (s : State) : (release s).fTxSeen = s.fTxSeen := rfl
@[simp] theorem release_flt (s : State) : (release s).flt = s.flt := rfl
@[simp] theorem release_cfgAddr (s : State) : (release s).cfgAddr = s.cfgAddr := rfl
@[simp] theorem release_cfgSf (s : State) : (release s).cfgSf = s.cfgSf := rfl
@[simp] theorem release_cfgKeyEn (s : State) : (release s).cfgKeyEn = s.cfgKeyEn := rfl
@[simp] theorem release_cfgKey (s : State) : (release s).cfgKey = s.cfgKey := rfl
@[simp] theorem release_cfgTimeout (s : State) : (release s).cfgTimeout = s.cfgTimeout := rfl
@[simp] theorem release_cfgMaxRetry (s : State) : (release s).cfgMaxRetry = s.cfgMaxRetry := rfl
@[simp] theorem release_cfgPromisc (s : State) : (release s).cfgPromisc = s.cfgPromisc := rfl
@[simp] theorem release_tq (s : State) : (release s).tq = s.tq := rfl
@[simp] theorem release_rt (s : State) : (release s).rt = s.rt := rfl
@[simp] theorem release_lock (s : State) : (release s).lock = .free := rfl
@[simp] theorem release_tick (s : State) : (release s).tick = s.tick := rfl
@[simp] theorem release_sends (s : State) : (release s).sends = s.sends := rfl
@[simp] theorem release_params (s : State) : (release s).params = s.params := rfl
@[simp] theorem release_port (s : State) : (release s).port = s.port := rfl
@[simp] theorem release_issuer (s : State) : (release s).issuer = s.issuer := rfl
@[simp] theorem release_tickIssuer (s : State) : (release s).tickIssuer = s.tickIssuer := rfl
@[simp] theorem release_polls (s : State) : (release s).polls = s.polls := rfl
@[simp] theorem release_txAnswers (s : State) : (release s).txAnswers = s.txAnswers := rfl
@[simp] theorem release_initAnswers (s : State) : (release s).initAnswers = s.initAnswers := rfl
@[simp] theorem release_knowns (s : State) : (release s).knowns = s.knowns := rfl
@[simp] theorem release_draws (s : State) : (release s).draws = s.draws := rfl
@[simp] theorem release_preempt (s : State) : (release s).preempt = s.preempt := rfl
@[simp] theorem release_turns (s : State) : (release s).turns = s.turns := rfl
@[simp] theorem release_rx (s : State) : (release s).rx = s.rx := rfl
@[simp] theorem release_free (s : State) : (release s).free = s.free := rfl
@[simp] theorem release_choices (s : State) : (release s).choices = s.choices := rfl
@[simp] theorem release_out (s : State) : (release s).out = s.out := rfl

end Sys2Proof.Machine
end

