-- ==== Sys2Proof/Laws/Ops.lean ====
section
/-! SUPPORT. One lemma per shared operation: all it can do. -/

namespace Sys2Proof.Machine

/-! ## Lists -/

/-- `splitFirst` finds nothing exactly when no element satisfies the test. -/
theorem splitFirst_eq_none {α : Type} (f : α → Bool) (l : List α) :
    splitFirst f l = none ↔ ∀ x ∈ l, f x = false := by
  induction l with
  | nil => simp [splitFirst]
  | cons x xs ih =>
    by_cases hx : f x
    · simp [splitFirst, hx]
    · cases h : splitFirst f xs <;> simp_all [splitFirst]

/-- `splitFirst` finds the first element that satisfies the test, with what stands before and after it. -/
theorem splitFirst_eq_some {α : Type} (f : α → Bool) (l before after : List α) (y : α) :
    splitFirst f l = some (before, y, after) ↔
      l = before ++ y :: after ∧ f y = true ∧ ∀ x ∈ before, f x = false := by
  induction l generalizing before with
  | nil => simp [splitFirst]
  | cons x xs ih =>
    by_cases hx : f x
    · simp only [splitFirst, hx, if_true, Option.some.injEq, Prod.mk.injEq]
      constructor
      · rintro ⟨rfl, rfl, rfl⟩; simp [hx]
      · rintro ⟨h, hy, hb⟩
        cases before with
        | nil => simp_all
        | cons b bs => simp_all
    · cases before with
      | nil =>
        have hne : ¬(x = y ∧ f y = true) := fun ⟨h, hy⟩ => hx (h ▸ hy)
        cases h : splitFirst f xs <;> simp [splitFirst, hx, h]
        all_goals intro hxy _; simpa [hxy] using hne
      | cons b bs =>
        have := ih bs
        cases h : splitFirst f xs with
        | none => simp_all [splitFirst]
        | some r =>
          obtain ⟨r1, r2, r3⟩ := r
          simp only [h, Option.some.injEq, Prod.mk.injEq] at this
          simp [splitFirst, hx, h]
          constructor
          · rintro ⟨⟨rfl, h1⟩, h2, h3⟩
            obtain ⟨e, h4, h5⟩ := this.1 ⟨h1, h2, h3⟩
            exact ⟨⟨rfl, e⟩, h4, by simpa using hx, h5⟩
          · rintro ⟨⟨rfl, e⟩, h4, _, h5⟩
            obtain ⟨h1, h2, h3⟩ := this.2 ⟨e, h4, h5⟩
            exact ⟨⟨rfl, h1⟩, h2, h3⟩

/-- Where `insertEntry` puts the entry (R192): behind every entry of its priority or a higher one, before the first of
a strictly lower one. -/
theorem insertEntry_spec (e : Entry) (l : List Entry) :
    ∃ before after, l = before ++ after ∧ insertEntry e l = before ++ e :: after ∧
      (∀ x ∈ after.head?, x.prio.num < e.prio.num) ∧ ∀ x ∈ before, e.prio.num ≤ x.prio.num := by
  induction l with
  | nil => exact ⟨[], [], by simp [insertEntry]⟩
  | cons x xs ih =>
    by_cases h : x.prio.num < e.prio.num
    · exact ⟨[], x :: xs, by simp [insertEntry, h]⟩
    · obtain ⟨b, a, rfl, hi, ha, hb⟩ := ih
      refine ⟨x :: b, a, by simp, by simp [insertEntry, h, hi], ha, ?_⟩
      simpa using ⟨by omega, hb⟩

/-! ## Bytes -/

/-- `xorAll` of a concatenation. -/
theorem xorAll_append (a b : Buf) : xorAll (a ++ b) = xorAll a ^^^ xorAll b := by
  induction a with
  | nil => simp [xorAll]
  | cons x xs ih => simp [xorAll, ih, BitVec.xor_assoc]

/-- Writing a byte changes `xorAll` by the old and the new value. -/
theorem xorAll_set (p : Buf) (i : Nat) (v : Byte) (h : i < p.length) :
    xorAll (p.set i v) = xorAll p ^^^ p[i] ^^^ v := by
  induction p generalizing i with
  | nil => simp at h
  | cons x xs ih =>
    cases i with
    | zero => simp only [List.set_cons_zero, xorAll, List.getElem_cons_zero]; rw [BitVec.xor_comm x]; simp [BitVec.xor_comm]
    | succ i =>
      have := ih i (by simpa using h)
      simp [xorAll, this, BitVec.xor_assoc]

/-- Writing the checksum makes the XOR of the whole packet 0 (R154). -/
theorem xorAll_sealPkt (p : Buf) (h : 5 ≤ p.length) : xorAll (sealPkt p) = 0 := by
  have h3 : 3 < p.length := by omega
  simp [sealPkt, csumVal, memWrite, xorAll_set, h3, BitVec.xor_comm, ← BitVec.xor_assoc]

/-- Sealing keeps the length. -/
@[simp] theorem length_sealPkt (p : Buf) : (sealPkt p).length = p.length := by simp [sealPkt, memWrite]

/-- Stamping keeps the length. -/
@[simp] theorem length_stamp (p : Buf) (n : Byte) : (stamp p n).length = p.length := by simp [stamp, memWrite]

/-- A stamped packet is sealed (R196). -/
theorem xorAll_stamp (p : Buf) (n : Byte) (h : 5 ≤ p.length) : xorAll (stamp p n) = 0 :=
  xorAll_sealPkt _ (by simpa [memWrite] using h)

/-! ## Asks: each one answers with the script's next entry or a free value, and only its script, `free` and the trace
change -/

/-- What a poll can answer. -/
theorem askPoll_cases (s : State) :
    (∃ a r, s.polls = a :: r ∧ askPoll s = (a, { s with polls := r, out := s.out ++ [.radioPollReceive] })) ∨
    (s.polls = [] ∧
      askPoll s = (Config.freePoll s.free, { s with free := s.free + 1, out := s.out ++ [.radioPollReceive] })) := by
  unfold askPoll
  split <;> simp_all [emit]

/-- What a transmission can answer. -/
theorem askTransmit_cases (w : Buf) (s : State) :
    (∃ a r, s.txAnswers = a :: r ∧
      askTransmit w s = (a, { s with txAnswers := r, out := s.out ++ [.radioTransmit w] })) ∨
    (s.txAnswers = [] ∧
      askTransmit w s =
        (Config.freeTransmit s.free, { s with free := s.free + 1, out := s.out ++ [.radioTransmit w] })) := by
  unfold askTransmit
  split <;> simp_all [emit]

/-- What an initialisation can answer. -/
theorem askInitialize_cases (s : State) :
    (∃ a r, s.initAnswers = a :: r ∧
      askInitialize s = (a, { s with initAnswers := r, out := s.out ++ [.radioInitialize s.cfgSf] })) ∨
    (s.initAnswers = [] ∧
      askInitialize s =
        (Config.freeInit s.free, { s with free := s.free + 1, out := s.out ++ [.radioInitialize s.cfgSf] })) := by
  unfold askInitialize
  split <;> simp_all [emit]

/-- What the registry can answer. -/
theorem askObserve_cases (p : Buf) (q : Int) (s : State) :
    (∃ a r, s.knowns = a :: r ∧
      askObserve p q s = (a, { s with knowns := r, out := s.out ++ [.regObserve p q] })) ∨
    (s.knowns = [] ∧
      askObserve p q s =
        (Config.freeKnown s.free, { s with free := s.free + 1, out := s.out ++ [.regObserve p q] })) := by
  unfold askObserve
  split <;> simp_all [emit]

/-- A jitter lies in its range (R264). -/
theorem jitterOf_le (mlt raw : Ticks) : (jitterOf mlt raw).toNat ≤ mlt.toNat := by
  have h : raw.toNat % (mlt.toNat + 1) < mlt.toNat + 1 := Nat.mod_lt _ (Nat.succ_pos _)
  have := mlt.isLt
  simp only [jitterOf, BitVec.toNat_ofNat]
  rw [Nat.mod_eq_of_lt (by omega)]
  omega

/-- Every value of the range is a jitter (R264). -/
theorem jitterOf_self (mlt v : Ticks) (h : v.toNat ≤ mlt.toNat) : jitterOf mlt v = v := by
  rw [jitterOf, Nat.mod_eq_of_lt (by omega)]
  simp

/-! ## Queue operations: all each can do -/

/-- `TQ.ENQ` (R192). -/
theorem enqueue_cases (p : Buf) (dest : Addr) (prio : Prio) (droppable : Bool) (s : State) :
    (s.params.mtu < p.length ∧ enqueue p dest prio droppable s = (.eBadCmd, { s with lock := .free })) ∨
    (p.length ≤ s.params.mtu ∧ p.length < 5 ∧ enqueue p dest prio droppable s = (.eShort, { s with lock := .free })) ∨
    (p.length ≤ s.params.mtu ∧ 5 ≤ p.length ∧ droppable = true ∧ exempt s p = false ∧ s.params.qCap ≤ s.tq.length ∧
      enqueue p dest prio droppable s = (.eQfull, { s with lock := .free })) ∨
    (p.length ≤ s.params.mtu ∧ 5 ≤ p.length ∧ (droppable && !exempt s p && capReached s) = false ∧
      exceedsDepth s (s.tq.length + 1) = true ∧
      enqueue p dest prio droppable s = (.eQovf, { raise .eQovf [s.tq.length] s with lock := .free })) ∨
    (p.length ≤ s.params.mtu ∧ 5 ≤ p.length ∧ (droppable && !exempt s p && capReached s) = false ∧
      exceedsDepth s (s.tq.length + 1) = false ∧
      enqueue p dest prio droppable s =
        (.ok, { s with tq := insertEntry (newEntry p dest prio s) s.tq, free := s.free + 1, lock := .free })) := by
  by_cases h0 : s.params.mtu < p.length
  · exact .inl ⟨h0, by simp [enqueue, atomic, h0, release]⟩
  refine .inr ?_
  have h0' : p.length ≤ s.params.mtu := by omega
  by_cases h1 : p.length < 5
  · exact .inl ⟨h0', h1, by simp [enqueue, atomic, h0, h1, Config.hdrLen, release]⟩
  have h1' : 5 ≤ p.length := by omega
  have h1'' : ¬p.length < Config.hdrLen := by simpa [Config.hdrLen] using h1
  by_cases h2 : (droppable && !exempt s p && capReached s) = true
  · refine .inr (.inl ?_)
    have h2' := h2
    simp only [Bool.and_eq_true, Bool.not_eq_true', capReached, decide_eq_true_eq] at h2'
    refine ⟨h0', h1', h2'.1.1, h2'.1.2, h2'.2, ?_⟩
    rw [enqueue, atomic, if_neg h0, if_neg h1'', if_pos h2]
    rfl
  by_cases h3 : exceedsDepth s (s.tq.length + 1) = true
  · refine .inr (.inr (.inl ⟨h0', h1', by simpa using h2, h3, ?_⟩))
    rw [enqueue, atomic, if_neg h0, if_neg h1'', if_neg h2, if_pos h3]
    rfl
  · refine .inr (.inr (.inr ⟨h0', h1', by simpa using h2, by simpa using h3, ?_⟩))
    rw [enqueue, atomic, if_neg h0, if_neg h1'', if_neg h2, if_neg h3]
    rfl

/-- What a mark counts (R197, R39 (d)): at most `max_retry + 1`; one more where that bound allows it; and for a legal retry
budget nothing that compares a count with 0 or with the budget, as `sendable` and `expired` do, can tell it from
`sent_count + 1`. -/
theorem bumpCount_spec (e : Entry) :
    (bumpCount e).toNat ≤ e.maxRetry.toNat + 1 ∧ bumpCount e ≠ 0 ∧
      (e.sentCount.toNat ≤ e.maxRetry.toNat → e.maxRetry.toNat ≤ 254 → bumpCount e = e.sentCount + 1) ∧
      (e.maxRetry.toNat ≤ 254 → ((bumpCount e).toNat ≤ e.maxRetry.toNat ↔ e.sentCount.toNat + 1 ≤ e.maxRetry.toNat)) := by
  have h : (bumpCount e).toNat = min (e.sentCount.toNat + 1) (min (e.maxRetry.toNat + 1) 255) := by
    rw [bumpCount, BitVec.toNat_ofNat]
    omega
  refine ⟨by omega, fun h0 => ?_, fun h1 h2 => ?_, by omega⟩
  · rw [h0] at h
    simp at h
    omega
  · apply BitVec.eq_of_toNat_eq
    rw [h, BitVec.toNat_add]
    simp
    omega

/-- `TQ.PEEK` (R194). -/
theorem peek_eq (now : Ticks) (s : State) :
    peek now s = (s.tq.any fun e => sendable e now, { s with lock := .free }) := rfl

/-- `TQ.NEXT` (R195, R196). -/
theorem nextSendable_cases (now : Ticks) (s : State) :
    ((∀ e ∈ s.tq, sendable e now = false) ∧ nextSendable now s = (none, { s with lock := .free })) ∨
    (∃ before e after, s.tq = before ++ e :: after ∧ sendable e now = true ∧ (∀ x ∈ before, sendable x now = false) ∧
      ((e.seqAssigned = true ∧ nextSendable now s = (some e.pkt, { s with lock := .free })) ∨
       (e.seqAssigned = false ∧
        nextSendable now s =
          (some (stamp e.pkt (seqAt s e.dest)),
            { setSeq e.dest (seqAt s e.dest + 1) s with
              tq := before ++ { e with pkt := stamp e.pkt (seqAt s e.dest), seqAssigned := true } :: after
              lock := .free })))) := by
  cases h : splitFirst (fun e => sendable e now) s.tq with
  | none => exact .inl ⟨(splitFirst_eq_none _ _).1 h, by simp [nextSendable, atomic, h, release]⟩
  | some r =>
    obtain ⟨before, e, after⟩ := r
    obtain ⟨h1, h2, h3⟩ := (splitFirst_eq_some _ _ _ _ _).1 h
    refine .inr ⟨before, e, after, h1, h2, h3, ?_⟩
    cases hs : e.seqAssigned
    · refine .inr ⟨rfl, ?_⟩
      simp only [nextSendable, atomic, h, dispatch, hs]
      rfl
    · refine .inl ⟨rfl, ?_⟩
      simp only [nextSendable, atomic, h, dispatch, hs, if_true, release]
      rw [← h1]

/-- `TQ.MARK` (R197). -/
theorem markSent_cases (p : Buf) (now : Ticks) (s : State) :
    ((∀ e ∈ s.tq, isDispatched p e = false) ∧
      markSent p now s =
        (.wNoMatch, { raise .wNoMatch [(dstOf p).toNat, (seqOf p).toNat] s with lock := .free })) ∨
    (∃ before e after, s.tq = before ++ e :: after ∧ isDispatched p e = true ∧
      (∀ x ∈ before, isDispatched p x = false) ∧
      ((qosOf e.pkt = false ∧ markSent p now s = (.ok, { s with tq := before ++ after, lock := .free })) ∨
       (qosOf e.pkt = true ∧
        markSent p now s =
          (.ok,
            { s with
              tq := before ++ { e with sentCount := bumpCount e, lastSent := now } :: after
              lock := .free })))) := by
  cases h : splitFirst (isDispatched p) s.tq with
  | none => exact .inl ⟨(splitFirst_eq_none _ _).1 h, by simp [markSent, atomic, h, release]⟩
  | some r =>
    obtain ⟨before, e, after⟩ := r
    obtain ⟨h1, h2, h3⟩ := (splitFirst_eq_some _ _ _ _ _).1 h
    refine .inr ⟨before, e, after, h1, h2, h3, ?_⟩
    cases hq : qosOf e.pkt
    · exact .inl ⟨rfl, by simp [markSent, atomic, h, hq, release]⟩
    · exact .inr ⟨rfl, by simp [markSent, atomic, h, hq, release]⟩

/-- `TQ.RMKEY` (R198). -/
theorem removeByKey_cases (dest : Addr) (seq : Byte) (s : State) :
    ((∀ e ∈ s.tq, hasKey dest seq e = false) ∧
      removeByKey dest seq s = (.wNoMatch, { raise .wNoMatch [dest.toNat, seq.toNat] s with lock := .free })) ∨
    (∃ before e after, s.tq = before ++ e :: after ∧ hasKey dest seq e = true ∧
      (∀ x ∈ before, hasKey dest seq x = false) ∧
      removeByKey dest seq s = (.ok, { s with tq := before ++ after, lock := .free })) := by
  cases h : splitFirst (hasKey dest seq) s.tq with
  | none => exact .inl ⟨(splitFirst_eq_none _ _).1 h, by simp [removeByKey, atomic, h, release]⟩
  | some r =>
    obtain ⟨before, e, after⟩ := r
    obtain ⟨h1, h2, h3⟩ := (splitFirst_eq_some _ _ _ _ _).1 h
    exact .inr ⟨before, e, after, h1, h2, h3, by simp [removeByKey, atomic, h, release]⟩

/-- Removal of an unserialisable entry (R275). -/
theorem dropUnsent_cases (p : Buf) (s : State) :
    ((∀ e ∈ s.tq, isDispatched p e = false) ∧ dropUnsent p s = ((), { s with lock := .free })) ∨
    (∃ before e after, s.tq = before ++ e :: after ∧ isDispatched p e = true ∧
      (∀ x ∈ before, isDispatched p x = false) ∧
      dropUnsent p s = ((), { s with tq := before ++ after, lock := .free })) := by
  cases h : splitFirst (isDispatched p) s.tq with
  | none => exact .inl ⟨(splitFirst_eq_none _ _).1 h, by simp [dropUnsent, atomic, h, release]⟩
  | some r =>
    obtain ⟨before, e, after⟩ := r
    obtain ⟨h1, h2, h3⟩ := (splitFirst_eq_some _ _ _ _ _).1 h
    exact .inr ⟨before, e, after, h1, h2, h3, by simp [dropUnsent, atomic, h, release]⟩

/-- The log records of dropped entries (R199). -/
def dropLogs (es : List Entry) : List Out :=
  es.map fun e => .log .eRetryExh [e.dest.toNat, (seqOf e.pkt).toNat]

/-- Raising drops touches the trace and `FLT.RETRYEXH` only. -/
theorem raiseDrops_eq (es : List Entry) (s : State) :
    raiseDrops es s =
      { s with out := s.out ++ dropLogs es, flt := if es = [] then s.flt else s.flt ||| 0x10 } := by
  induction es generalizing s with
  | nil => simp [raiseDrops, dropLogs]
  | cons e es ih =>
    have hf : raiseDrops (e :: es) s = raiseDrops es (raise .eRetryExh [e.dest.toNat, (seqOf e.pkt).toNat] s) := rfl
    rw [hf, ih]
    cases es <;> simp [dropLogs, raise, logRec, emit, fltMask, BitVec.or_assoc]

/-- `TQ.CLEAN` (R199). -/
theorem cleanUp_eq (now : Ticks) (s : State) :
    cleanUp now s =
      ((s.tq.filter fun e => expired e now).length,
        { s with
          tq := s.tq.filter fun e => !expired e now
          out := s.out ++ dropLogs (s.tq.filter fun e => expired e now)
          flt := if (s.tq.filter fun e => expired e now) = [] then s.flt else s.flt ||| 0x10
          lock := .free }) := by
  simp [cleanUp, atomic, raiseDrops_eq, release]

/-! ## The receive tracker -/

/-- The missing-packet log records of R233. -/
def missingLogs (t : Tracker) (p : Buf) : List Out :=
  if t.lastValid ∧ seqOf p ≠ seqOf t.last + 1 then
    [.log .wMissing [(srcOf p).toNat, (seqOf t.last + 1).toNat, (seqOf p).toNat]]
  else []

/-- The missing-packet warning (R233) touches the trace only. -/
theorem warnMissing_eq (t : Tracker) (p : Buf) (s : State) :
    warnMissing t p s = { s with out := s.out ++ missingLogs t p } := by
  unfold warnMissing missingLogs
  by_cases h : t.lastValid = true ∧ seqOf p ≠ seqOf t.last + 1
  · have hc : (t.lastValid && seqOf p != seqOf t.last + 1) = true := by simpa using h
    rw [if_pos hc, if_pos h]; simp [raise, logRec, emit, fltMask]
  · have hc : ¬(t.lastValid && seqOf p != seqOf t.last + 1) = true := by simpa using h
    rw [if_neg hc, if_neg h]; simp

/-- The warnings of a final fragment (R235) touch the trace only. -/
theorem warnRun_eq (fs : List Buf) (p : Buf) (ty : PType) (s : State) :
    warnRun fs p ty s =
      { s with
        out := s.out ++ (if fs.any fun f => typeOf f != ty then [.log .wFragType [(srcOf p).toNat]] else []) ++
          (if contiguous fs then [] else [.log .wFragSeq [(srcOf p).toNat]]) } := by
  unfold warnRun
  split <;> split <;> simp [raise, logRec, emit, fltMask]

/-- `RT.ACCEPT` (R231 to R238): duplicate, overflow, fragment, single message, final fragment. -/
theorem acceptPkt_cases (a : Addr) (p : Buf) (s : State) :
    ((trackerAt s a).lastValid = true ∧ p = (trackerAt s a).last ∧
      acceptPkt a p s = (⟨.ok, none⟩, { raise .wDup [(srcOf p).toNat, (seqOf p).toNat] s with lock := .free })) ∨
    (¬((trackerAt s a).lastValid = true ∧ p = (trackerAt s a).last) ∧
      ((splitOf p = true ∧ fragsFull s (trackerAt s a) = true ∧
        acceptPkt a p s =
          (⟨.eFragOvf, none⟩,
            { setTracker a ⟨true, p, []⟩ s with
              out := s.out ++ missingLogs (trackerAt s a) p ++ [.log .eFragOvf [(srcOf p).toNat]]
              flt := s.flt ||| 0x04
              lock := .free })) ∨
       (splitOf p = true ∧ fragsFull s (trackerAt s a) = false ∧
        acceptPkt a p s =
          (⟨.ok, none⟩,
            { setTracker a ⟨true, p, (trackerAt s a).frags ++ [p]⟩ s with
              out := s.out ++ missingLogs (trackerAt s a) p
              lock := .free })) ∨
       (splitOf p = false ∧ (trackerAt s a).frags = [] ∧
        acceptPkt a p s =
          (⟨.ok, some (payloadOf p, typeOf p)⟩,
            { setTracker a ⟨true, p, []⟩ s with
              out := s.out ++ missingLogs (trackerAt s a) p
              lock := .free })) ∨
       (∃ f fs, splitOf p = false ∧ (trackerAt s a).frags = f :: fs ∧
        acceptPkt a p s =
          (⟨.ok, some ((f :: fs ++ [p]).flatMap payloadOf, typeOf f)⟩,
            { setTracker a ⟨true, p, []⟩ s with
              out := s.out ++ missingLogs (trackerAt s a) p ++
                (if (f :: fs ++ [p]).any fun g => typeOf g != typeOf f then [.log .wFragType [(srcOf p).toNat]] else []) ++
                (if contiguous (f :: fs ++ [p]) then [] else [.log .wFragSeq [(srcOf p).toNat]])
              lock := .free })))) := by
  by_cases hd : (trackerAt s a).lastValid = true ∧ p = (trackerAt s a).last
  · refine .inl ⟨hd.1, hd.2, ?_⟩
    have hc : ((trackerAt s a).lastValid && p == (trackerAt s a).last) = true := by
      rw [hd.1, ← hd.2]; simp
    simp only [acceptPkt, atomic, hc, if_true, release]
  · refine .inr ⟨hd, ?_⟩
    have hc : ((trackerAt s a).lastValid && p == (trackerAt s a).last) = false := by
      simpa [Bool.and_eq_false_iff] using hd
    have hff : fragsFull { s with out := s.out ++ missingLogs (trackerAt s a) p }
        ⟨true, p, (trackerAt s a).frags⟩ = fragsFull s (trackerAt s a) := rfl
    have ha : acceptPkt a p s =
        ((acceptNew a ⟨true, p, (trackerAt s a).frags⟩ p
            { s with out := s.out ++ missingLogs (trackerAt s a) p }).1,
          release (acceptNew a ⟨true, p, (trackerAt s a).frags⟩ p
            { s with out := s.out ++ missingLogs (trackerAt s a) p }).2) := by
      simp [acceptPkt, atomic, hc, warnMissing_eq]
    rw [ha]
    cases hs : splitOf p
    · refine .inr (.inr ?_)
      cases hf : (trackerAt s a).frags with
      | nil => exact .inl ⟨rfl, rfl, by simp [acceptNew, hs, release, setTracker]⟩
      | cons f fs =>
        exact .inr ⟨f, fs, rfl, rfl, by simp [acceptNew, hs, release, setTracker, warnRun_eq]⟩
    · cases hf : fragsFull s (trackerAt s a)
      · exact .inr (.inl ⟨rfl, rfl, by simp [acceptNew, hs, hff, hf, release, setTracker]⟩)
      · exact .inl ⟨rfl, rfl, by simp [acceptNew, hs, hff, hf, release, setTracker, raise, logRec, emit, fltMask]⟩

/-! ## Send and configuration -/

/-- The first sub-step of `LS.SEND` (R279). -/
theorem sendRoom_cases (type : PType) (allowDrop : Bool) (k : Nat) (s : State) :
    ((allowDrop && decide (type ∉ s.params.exemptTypes) && capReached s) = true ∧
      sendRoom type allowDrop k s = (.eQfull, { s with lock := .free })) ∨
    ((allowDrop && decide (type ∉ s.params.exemptTypes) && capReached s) = false ∧
      exceedsDepth s (s.tq.length + k) = true ∧
      sendRoom type allowDrop k s = (.eQovf, { raise .eQovf [s.tq.length] s with lock := .free })) ∨
    ((allowDrop && decide (type ∉ s.params.exemptTypes) && capReached s) = false ∧
      exceedsDepth s (s.tq.length + k) = false ∧ sendRoom type allowDrop k s = (.ok, { s with lock := .free })) := by
  cases h1 : (allowDrop && decide (type ∉ s.params.exemptTypes) && capReached s)
  · cases h2 : exceedsDepth s (s.tq.length + k)
    · exact .inr (.inr ⟨rfl, rfl, by simp only [sendRoom, atomic, h1, h2, release]; rfl⟩)
    · exact .inr (.inl ⟨rfl, rfl, by simp only [sendRoom, atomic, h1, h2, release]; rfl⟩)
  · exact .inl ⟨rfl, by simp only [sendRoom, atomic, h1, release]; rfl⟩

/-- `CFG.WR` (R282). -/
theorem cfgWrite_cases (r : CfgReg) (v : Nat) (s : State) :
    (r = .flt ∧ cfgWrite r v s = (.eBadCmd, { s with lock := .free })) ∨
    (r ≠ .flt ∧ r ≠ .addr ∧ cfgUnlocked s = false ∧ cfgWrite r v s = (.eCfgLock, { s with lock := .free })) ∨
    (r ≠ .flt ∧ (r = .addr ∨ cfgUnlocked s = true) ∧ cfgLegal s r v = false ∧
      cfgWrite r v s = (.eBadCfg, { s with lock := .free })) ∨
    (r ≠ .flt ∧ (r = .addr ∨ cfgUnlocked s = true) ∧ cfgLegal s r v = true ∧
      cfgWrite r v s = (.ok, { writeReg r v s with lock := .free })) := by
  cases h2 : cfgUnlocked s <;> cases h3 : cfgLegal s r v <;> cases r <;>
    simp_all [cfgWrite, atomic, writeReg, release]

/-! ## Running a tick or a send -/

/-- A cut comes from the script, or is free; only the script or the counter of free choices changes. -/
theorem takeCut_cases (s : State) :
    (∃ c r, s.preempt = c :: r ∧ takeCut s = (c, { s with preempt := r })) ∨
    (s.preempt = [] ∧ takeCut s = (Config.freeCut s.choices, { s with choices := s.choices + 1 })) := by
  unfold takeCut
  split <;> simp_all

/-- A run the script does not interrupt. -/
theorem takeCut_cons (c : Option Nat) (r : List (Option Nat)) (s : State) (h : s.preempt = c :: r) :
    takeCut s = (c, { s with preempt := r }) := by
  simp only [takeCut, h]

/-- A run makes at least one sub-step. -/
theorem runLength_pos (c : Option Nat) : 0 < runLength c := by cases c <;> simp [runLength, tickBound]

/-- Without sub-steps a tick is over. -/
@[simp] theorem drive_nil (n : Nat) (s : State) : drive n [] s = { s with tick := [] } := by
  cases n <;> rfl

/-- One sub-step. -/
theorem drive_cons (n : Nat) (m : Micro) (ms : List Micro) (s : State) :
    drive (n + 1) (m :: ms) s = drive n ((microStep m s).2 ++ ms) (microStep m s).1 := rfl

/-- A tick the script does not interrupt. -/
theorem startTick_uncut (ms : List Micro) (s : State) (r : List (Option Nat)) (h1 : s.tick = [])
    (h2 : s.preempt = none :: r) : startTick ms s = .next (drive 16 ms { s with preempt := r }) := by
  simp only [startTick, h1, List.isEmpty_nil, if_true, runTick, takeCut_cons _ _ _ h2, runLength, tickBound]

/-- A send with no fragment left completes. -/
theorem runSend_nil (who : Nat) (dest : Addr) (n : Nat) (s : State) :
    runSend who dest n [] s = finish opLsSend .ok (.bool true) s := by
  cases n <;> rfl

end Sys2Proof.Machine
end

