-- ==== Sys2Proof/Laws/Codec.lean ====
section
/-! SUPPORT. Lemmas of the operand readers and writers, the header views, the hex digits, the cipher, and the codec's
tests. -/

namespace Sys2Proof

open Sys2Proof.Machine

/-! ## Reading what was written -/

@[simp] theorem getByte_cons (b : Byte) (r : List Byte) : getByte (b :: r) = .ok (b, r) := rfl

/-- A number of at most 8 bits. -/
@[simp] theorem getBits_putBits (n : Nat) (h : n ≤ 8) (v : BitVec n) (r : List Byte) :
    getBits n (putBits n v ++ r) = .ok (v, r) := by
  have hp : 2 ^ n ≤ 2 ^ 8 := Nat.pow_le_pow_right (by decide) h
  have h1 : v.toNat < 256 := lt_of_lt_of_le v.isLt hp
  simp [getBits, putBits, getByte, Nat.mod_eq_of_lt h1, v.isLt]

/-- A bit. -/
@[simp] theorem getBool_putBool (b : Bool) (r : List Byte) : getBool (putBool b ++ r) = .ok (b, r) := by cases b <;> rfl

/-- A little-endian number that fits. -/
theorem getNum_putNum (n v : Nat) (h : v < 256 ^ n) (r : List Byte) : getNum n (putNum n v ++ r) = .ok (v, r) := by
  induction n generalizing v with
  | zero => simp [getNum, putNum]; omega
  | succ n ih =>
    have := ih (v / 256) (by rw [Nat.div_lt_iff_lt_mul (by decide)]; rw [pow_succ] at h; omega)
    simp only [putNum, List.cons_append, getNum, getByte, this]
    simp; omega

/-- A time. -/
@[simp] theorem getTicks_putTicks (t : Ticks) (r : List Byte) : getTicks (putTicks t ++ r) = .ok (t, r) := by
  simp [getTicks, putTicks, getNum_putNum 4 t.toNat (by have := t.isLt; omega)]

/-- A buffer. -/
@[simp] theorem getBuf_putBuf (b : Buf) (r : List Byte) : getBuf (putBuf b ++ r) = .ok (b, r) := by
  induction b with
  | nil => cases r <;> simp [putBuf, getBuf]
  | cons x xs ih => simp [putBuf, getBuf, ih]

/-- An optional buffer. -/
@[simp] theorem getKey_putKey (k : Option Buf) (r : List Byte) : getKey (putKey k ++ r) = .ok (k, r) := by
  cases k <;> simp [putKey, getKey]

/-- A priority. -/
@[simp] theorem getPrio_codeOfPrio (p : Prio) (r : List Byte) : getPrio (codeOfPrio p :: r) = .ok (p, r) := by
  cases p <;> rfl

/-- A register number. -/
@[simp] theorem getReg_putBits (g : CfgReg) (r : List Byte) : getReg (putBits 3 g.num ++ r) = .ok (g, r) := by
  simp only [getReg, getBits_putBits 3 (by decide)]
  cases g <;> rfl

/-- A number of at most 8 bits at the end of the bytes. -/
@[simp] theorem getBits_putBits_nil (n : Nat) (h : n ≤ 8) (v : BitVec n) : getBits n (putBits n v) = .ok (v, []) := by
  simpa using getBits_putBits n h v []

/-- A bit at the end of the bytes. -/
@[simp] theorem getBool_putBool_nil (b : Bool) : getBool (putBool b) = .ok (b, []) := by cases b <;> rfl

/-- A time at the end of the bytes. -/
@[simp] theorem getTicks_putTicks_nil (t : Ticks) : getTicks (putTicks t) = .ok (t, []) := by
  simpa using getTicks_putTicks t []

/-- A buffer at the end of the bytes. -/
@[simp] theorem getBuf_putBuf_nil (b : Buf) : getBuf (putBuf b) = .ok (b, []) := by simpa using getBuf_putBuf b []

/-- An optional buffer at the end of the bytes. -/
@[simp] theorem getKey_putKey_nil (k : Option Buf) : getKey (putKey k) = .ok (k, []) := by simpa using getKey_putKey k []

/-- A register number at the end of the bytes. -/
@[simp] theorem getReg_putBits_nil (g : CfgReg) : getReg (putBits 3 g.num) = .ok (g, []) := by
  simpa using getReg_putBits g []

/-- The header row of a type encodes as the packed header and the body. -/
theorem encode_instrOfType (t : PType) (h : Hdr) (b : Buf) : encode (instrOfType t h b) = packHdr h t ++ b := by
  by_cases h0 : t = 0; · subst h0; rfl
  by_cases h1 : t = 1; · subst h1; rfl
  by_cases h2 : t = 2; · subst h2; rfl
  by_cases h3 : t = 3; · subst h3; rfl
  by_cases h4 : t = 4; · subst h4; rfl
  by_cases h5 : t = 5; · subst h5; rfl
  by_cases h6 : t = 6; · subst h6; rfl
  have h7 : t = 7 := by bv_omega
  subst h7; rfl

namespace Machine

/-! ## Header bytes (R112, R113) -/

/-- The four fields of byte 0. -/
theorem ctrlByte_fields (v : BitVec 3) (q f : Bool) (t : PType) :
    (ctrlByte v q f t).extractLsb' 0 3 = t ∧ (ctrlByte v q f t).extractLsb' 5 3 = v ∧
      (ctrlByte v q f t).getLsbD 4 = q ∧ (ctrlByte v q f t).getLsbD 3 = f := by
  revert v q f t; decide

/-- The two fields of byte 2. -/
theorem addrByte_fields (a b : Addr) : (addrByte a b).extractLsb' 4 4 = a ∧ (addrByte a b).extractLsb' 0 4 = b := by
  revert a b; decide

/-- Byte 0 is its four fields. -/
theorem ctrlByte_of_fields (b : Byte) :
    ctrlByte (b.extractLsb' 5 3) (b.getLsbD 4) (b.getLsbD 3) (b.extractLsb' 0 3) = b := by
  revert b; decide

/-- Byte 2 is its two fields. -/
theorem addrByte_of_fields (b : Byte) : addrByte (b.extractLsb' 4 4) (b.extractLsb' 0 4) = b := by
  revert b; decide

/-- The views routing uses, of a packet with a packed header. -/
theorem packHdr_views (h : Hdr) (t : PType) (b : Buf) :
    typeOf (packHdr h t ++ b) = t ∧ versionOf (packHdr h t ++ b) = h.version ∧ qosOf (packHdr h t ++ b) = h.qos ∧
      splitOf (packHdr h t ++ b) = h.split ∧ srcOf (packHdr h t ++ b) = h.src ∧ dstOf (packHdr h t ++ b) = h.dst ∧
      padlenOf (packHdr h t ++ b) = h.padlen ∧ seqOf (packHdr h t ++ b) = h.seq := by
  obtain ⟨h1, h2, h3, h4⟩ := ctrlByte_fields h.version h.qos h.split t
  obtain ⟨h5, h6⟩ := addrByte_fields h.src h.dst
  refine ⟨h1, h2, h3, h4, h5, h6, rfl, rfl⟩

/-- A stamped packet: its sequence byte is the number, and bytes other than 3 and 4 are kept (R196). -/
theorem stamp_getElem? (p : Buf) (n : Byte) (i : Nat) (h : i ≠ 3) (h' : i ≠ 4) : (stamp p n)[i]? = p[i]? := by
  simp [stamp, sealPkt, memWrite, h.symm, h'.symm]

/-- The number of a stamped packet (R196). -/
theorem seqOf_stamp (p : Buf) (n : Byte) (h : 5 ≤ p.length) : seqOf (stamp p n) = n := by
  have : 4 < p.length := by omega
  simp [seqOf, byteAt, stamp, sealPkt, memWrite, this]

/-! ## Types (R114, R193) -/

/-- With the decided codes the unknown types are 5, 6, 7 (R125 (a)). -/
theorem not_knownTypes (t : PType) : t ∉ Params.default.knownTypes ↔ 5 ≤ t.toNat := by revert t; decide

/-- `exempt` is decided by the type. -/
theorem exempt_eq_false (s : State) (p : Buf) : exempt s p = false ↔ typeOf p ∉ s.params.exemptTypes := by simp [exempt]

/-! ## Hex and cipher -/

/-- A digit's value (R119, R120). -/
theorem hexVal_hexDigit (n : BitVec 4) : hexVal (hexDigit n) = some n := by revert n; decide

/-- The two nibbles of a byte. -/
theorem nibbles_join (b : Byte) :
    BitVec.ofNat 8 (16 * (b.extractLsb' 4 4).toNat + (b.extractLsb' 0 4).toNat) = b := by
  revert b; decide

/-- The characters that have a value (R120). -/
theorem hexVal_isSome (c : Byte) : (hexVal c).isSome = true ↔
    0x30 ≤ c.toNat ∧ c.toNat ≤ 0x39 ∨ 0x41 ≤ c.toNat ∧ c.toNat ≤ 0x46 ∨ 0x61 ≤ c.toNat ∧ c.toNat ≤ 0x66 := by
  revert c; decide

/-- The law of the cipher (R158). -/
theorem dec_enc (k p : Buf) (hk : k.length = 32) (hp : p.length % 16 = 0) :
    dec k (enc k p) = p ∧ (enc k p).length = p.length := by
  have h : k.length = 32 ∧ p.length = 16 * (p.length / 16) := ⟨hk, by omega⟩
  have h1 : enc k p = ((Config.cipher ⟨k.toArray, h.1⟩ (p.length / 16)) ⟨p.toArray, h.2⟩).toList := by
    simp only [enc, onBlocks, dif_pos h]
  have hl : (enc k p).length = p.length := by rw [h1]; simp; omega
  refine ⟨?_, hl⟩
  have key : ∀ (n : Nat) (q : Buf) (hq : q.length = 16 * n), q.length / 16 = n →
      dec k q = (((Config.cipher ⟨k.toArray, h.1⟩ n).symm) ⟨q.toArray, hq⟩).toList := by
    intro n q hq hn
    subst hn
    simp only [dec, onBlocks, dif_pos (⟨hk, hq⟩ : k.length = 32 ∧ _)]
  have hl2 : (enc k p).length = 16 * (p.length / 16) := by omega
  rw [key (p.length / 16) _ hl2 (by omega)]
  have : (⟨(enc k p).toArray, hl2⟩ : Vector Byte _) =
      (Config.cipher ⟨k.toArray, h.1⟩ (p.length / 16)) ⟨p.toArray, h.2⟩ := by
    apply Vector.toList_inj.1; simp [h1]
  rw [this, Equiv.symm_apply_apply]
  simp

/-- The configured key has 32 bytes (R37). -/
@[simp] theorem length_keyBytes (k : BitVec 256) : (keyBytes k).length = 32 := by simp [keyBytes, Config.keyLen]

/-- `PKT.CHECK` of a buffer with a header (R155). -/
theorem checkPkt_eq (s : State) (p : Buf) (h : 5 ≤ p.length) :
    checkPkt s p =
      if xorAll p ≠ 0 then .error ⟨.eXor, [(xorAll p).toNat]⟩
      else if typeOf p ∉ s.params.knownTypes then .error ⟨.eType, [(typeOf p).toNat]⟩
      else if versionOf p ∉ s.params.knownVersions then .error ⟨.eVersion, [(versionOf p).toNat]⟩
      else .ok () := by
  have : ¬ p.length < Config.hdrLen := by simp [Config.hdrLen]; omega
  simp only [checkPkt, this, if_false]

end Machine

end Sys2Proof
end

