-- ==== Sys2Proof/Laws/Fetch.lean ====
section
/-! SUPPORT. What the command port can fetch, and the field lemmas of a fetch. -/

namespace Sys2Proof.Machine

/-- Nothing is busy in an idle block. -/
theorem busy_idle (s : State) (a : Nat) (h1 : s.tick = []) (h2 : s.sends = []) : busy s a = false := by
  simp [busy, h1, h2]

/-- An idle block fetches its oldest frame. -/
theorem nextFrame_idle (s : State) (f : Frame) (fs : List Frame) (h1 : s.tick = []) (h2 : s.sends = [])
    (h : s.port = f :: fs) : nextFrame s = some ([], f, fs) := by
  simp [nextFrame, h, splitFirst, busy_idle s _ h1 h2]

/-- What is fetched: nothing, when every waiting frame's agent is busy; else the oldest frame of an agent that is not
busy (R90). -/
theorem nextFrame_cases (s : State) :
    (nextFrame s = none ∧ ∀ f ∈ s.port, busy s f.agent = true) ∨
    ∃ before f after, nextFrame s = some (before, f, after) ∧ s.port = before ++ f :: after ∧
      busy s f.agent = false ∧ ∀ g ∈ before, busy s g.agent = true := by
  cases h : nextFrame s with
  | none => exact .inl ⟨rfl, by simpa using (splitFirst_eq_none _ _).1 h⟩
  | some r =>
    obtain ⟨before, f, after⟩ := r
    obtain ⟨h1, h2, h3⟩ := (splitFirst_eq_some _ _ _ _ _).1 h
    exact .inr ⟨before, f, after, rfl, h1, by simpa using h2, by simpa using h3⟩

/-- A frame of an agent that is not busy, behind frames of busy agents only, is the one fetched. -/
theorem nextFrame_eq (s : State) (before after : List Frame) (f : Frame) (h : s.port = before ++ f :: after)
    (hf : busy s f.agent = false) (hb : ∀ g ∈ before, busy s g.agent = true) :
    nextFrame s = some (before, f, after) :=
  (splitFirst_eq_some _ _ _ _ _).2 ⟨h, by simpa using hf, by simpa using hb⟩

/-- Before the fetched frame no frame of its agent waits: each agent's frames are taken in order (R90). -/
theorem nextFrame_in_order (s : State) (before after : List Frame) (f : Frame)
    (h : nextFrame s = some (before, f, after)) : ∀ g ∈ before, g.agent ≠ f.agent := by
  obtain ⟨-, h2, h3⟩ := (splitFirst_eq_some _ _ _ _ _).1 h
  intro g hg e
  have := h3 g hg
  rw [e] at this
  simp_all

@[simp] theorem fetched_port (f : Frame) (r : List Frame) (s : State) : (fetched f r s).port = r := rfl
@[simp] theorem fetched_issuer (f : Frame) (r : List Frame) (s : State) : (fetched f r s).issuer = f.agent := rfl
@[simp] theorem fetched_tick (f : Frame) (r : List Frame) (s : State) : (fetched f r s).tick = s.tick := rfl
@[simp] theorem fetched_sends (f : Frame) (r : List Frame) (s : State) : (fetched f r s).sends = s.sends := rfl
@[simp] theorem fetched_tq (f : Frame) (r : List Frame) (s : State) : (fetched f r s).tq = s.tq := rfl
@[simp] theorem fetched_rt (f : Frame) (r : List Frame) (s : State) : (fetched f r s).rt = s.rt := rfl
@[simp] theorem fetched_seq (f : Frame) (r : List Frame) (s : State) : (fetched f r s).seq = s.seq := rfl
@[simp] theorem fetched_st (f : Frame) (r : List Frame) (s : State) : (fetched f r s).st = s.st := rfl
@[simp] theorem fetched_flt (f : Frame) (r : List Frame) (s : State) : (fetched f r s).flt = s.flt := rfl
@[simp] theorem fetched_lock (f : Frame) (r : List Frame) (s : State) : (fetched f r s).lock = s.lock := rfl
@[simp] theorem fetched_params (f : Frame) (r : List Frame) (s : State) : (fetched f r s).params = s.params := rfl
@[simp] theorem fetched_cfgMaxRetry (f : Frame) (r : List Frame) (s : State) :
    (fetched f r s).cfgMaxRetry = s.cfgMaxRetry := rfl
@[simp] theorem fetched_out (f : Frame) (r : List Frame) (s : State) : (fetched f r s).out = s.out := rfl

end Sys2Proof.Machine
end

