-- ==== Sys2Proof/Laws/Scheduler.lean ====
section
/-! SUPPORT. The scheduler's conditions in the spec's terms, what each queue operation answers once the entry it finds is
known, and the runs of sub-steps of a tick. -/

namespace Sys2Proof.Machine

/-! ## Conditions (R191, R199, R266, R268, R271 to R274) -/

/-- R191. -/
theorem sendable_iff (e : Entry) (now : Ticks) : sendable e now = true ↔
    e.sentCount = 0 ∨ (e.timeout.toNat ≤ (now - e.lastSent).toNat ∧ e.sentCount.toNat ≤ e.maxRetry.toNat) := by
  simp only [sendable, Bool.or_eq_true, Bool.and_eq_true, decide_eq_true_eq, beq_iff_eq]; rfl

/-- R199. -/
theorem expired_iff (e : Entry) (now : Ticks) : expired e now = true ↔
    e.maxRetry.toNat < e.sentCount.toNat ∧ e.timeout.toNat ≤ (now - e.lastSent).toNat := by
  simp only [expired, Bool.and_eq_true, decide_eq_true_eq]; rfl

/-- R192, R279. -/
theorem exceedsDepth_iff (s : State) (n : Nat) : exceedsDepth s n = true ↔ ∃ d, s.params.qDepth = some d ∧ d < n := by
  unfold exceedsDepth; cases s.params.qDepth <;> simp

/-- R234. -/
theorem fragsFull_iff (s : State) (t : Tracker) :
    fragsFull s t = true ↔ ∃ m, s.params.fragMax = some m ∧ m ≤ t.frags.length := by
  unfold fragsFull; cases s.params.fragMax <;> simp

/-- R266. -/
theorem listenOver_iff (s : State) (now : Ticks) : listenOver s now = true ↔
    2 * (minListen s).toNat + s.jit.toNat + s.params.minGap ≤ (now - s.tListen).toNat := by
  simp only [listenOver, decide_eq_true_eq]; rfl

/-- R271. -/
theorem gapOk_iff (s : State) (now : Ticks) :
    gapOk s now = true ↔ s.fTxSeen = false ∨ s.params.minGap ≤ (now - s.tTx).toNat := by
  simp only [gapOk, Bool.or_eq_true, decide_eq_true_eq, Bool.not_eq_true']; rfl

/-- R272. -/
theorem starved_iff (s : State) (now : Ticks) :
    starved s now = true ↔ (minListen s).toNat + s.params.maxTxWindow < (now - s.tRx).toNat := by
  simp only [starved, decide_eq_true_eq]; rfl

/-- R274. -/
theorem quiet_iff (s : State) (now : Ticks) : quiet s now = true ↔ s.params.quietPeriod ≤ (now - s.tRx).toNat := by
  simp only [quiet, decide_eq_true_eq]; rfl

/-- R268. -/
theorem forMe_iff (s : State) (p : Buf) :
    forMe s p = true ↔ s.cfgPromisc = true ∨ dstOf p = s.cfgAddr.extractLsb' 0 4 ∨ dstOf p = 15 := by
  simp only [forMe, Bool.or_eq_true, beq_iff_eq, or_assoc]; rfl

/-- The link key depends on the configuration alone. -/
theorem linkKey_congr (s u : State) (h1 : u.cfgKeyEn = s.cfgKeyEn) (h2 : u.cfgKey = s.cfgKey) : linkKey u = linkKey s := by
  simp only [linkKey, h1, h2]

/-- `MIN_LISTEN(CFG_SF)` depends on the parameters and the selector alone. -/
theorem minListen_congr (s u : State) (h1 : u.params = s.params) (h2 : u.cfgSf = s.cfgSf) : minListen u = minListen s := by
  simp only [minListen, h1, h2]

/-- Leaving `LISTENING` (R266). -/
theorem leaveListening_eq (now : Ticks) (u : State) :
    leaveListening now u =
      { u with
        fForce := false
        st := if u.fForce = true ∨ 2 * (minListen u).toNat + u.jit.toNat + u.params.minGap ≤ (now - u.tListen).toNat
          then .enterTransmit else .listening } := by
  unfold leaveListening
  cases hf : u.fForce
  · by_cases h : listenOver u now
    · have h' := (listenOver_iff u now).1 h
      simp only [h, h', or_true, if_true, Bool.false_eq_true, if_false]
      try rw [← hf]
    · have h' := mt (listenOver_iff u now).2 h
      simp only [h, h', or_false, if_false, Bool.false_eq_true]
      try rw [← hf]
  · simp

/-! ## Queue operations with the entry they find -/

/-- The entry and the state after `dispatch` (R196). -/
theorem dispatch_eq (e : Entry) (s : State) :
    dispatch e s =
      ({ e with
          pkt := if e.seqAssigned then e.pkt else sealPkt (e.pkt.set 4 (s.seq[e.dest.toNat]'e.dest.isLt))
          seqAssigned := true },
        { s with
          seq := if e.seqAssigned then s.seq
            else s.seq.set e.dest.toNat (s.seq[e.dest.toNat]'e.dest.isLt + 1) e.dest.isLt }) := by
  unfold dispatch
  cases h : e.seqAssigned
  · rfl
  · cases e; simp_all

/-- `TQ.NEXT` when the first sendable entry is `e` (R195). -/
theorem nextSendable_of_first (now : Ticks) (s : State) (before after : List Entry) (e : Entry)
    (h1 : s.tq = before ++ e :: after) (h2 : sendable e now = true) (h3 : ∀ x ∈ before, sendable x now = false) :
    nextSendable now s =
      (some (dispatch e s).1.pkt,
        { (dispatch e s).2 with tq := before ++ (dispatch e s).1 :: after, lock := .free }) := by
  have := (splitFirst_eq_some (fun e => sendable e now) s.tq before after e).2 ⟨h1, h2, h3⟩
  simp only [nextSendable, atomic, this, release]

/-- The entry a transmitted packet belongs to (R197, R275). -/
theorem splitFirst_isDispatched (p : Buf) (l before after : List Entry) (e : Entry) (h1 : l = before ++ e :: after)
    (h2 : e.seqAssigned = true) (h3 : e.pkt = p) (h4 : ∀ x ∈ before, ¬(x.seqAssigned = true ∧ x.pkt = p)) :
    splitFirst (isDispatched p) l = some (before, e, after) := by
  refine (splitFirst_eq_some _ _ _ _ _).2 ⟨h1, by simp [isDispatched, h2, h3], fun x hx => ?_⟩
  cases h : isDispatched p x
  · rfl
  · simp [isDispatched] at h; exact absurd h (h4 x hx)

/-- The entry an acknowledged number belongs to (R198). -/
theorem hasKey_iff (d : Addr) (q : Byte) (e : Entry) :
    hasKey d q e = true ↔ e.seqAssigned = true ∧ e.dest = d ∧ seqOf e.pkt = q := by
  simp [hasKey, and_assoc]

/-! ## Runs of sub-steps -/

/-- `TRANSMITTING`: an entry was found and put on the wire (R275). -/
theorem drive_next_ok (n : Nat) (s u : State) (now : Ticks) (p w : Buf) (hn : nextSendable now s = (some p, u))
    (hw : toWire p (linkKey u) = .ok w) :
    drive (n + 1) [.next now] s = drive n [.transmit p w now] u := by
  have : microStep (.next now) s = (u, [.transmit p w now]) := by simp only [microStep, nextToSend, hn, hw]
  rw [drive_cons, this]; rfl

/-- `TRANSMITTING`: an entry was found that cannot be put on the wire (R275). -/
theorem drive_next_error (n : Nat) (s u : State) (now : Ticks) (p : Buf) (r : Refuse)
    (hn : nextSendable now s = (some p, u)) (hw : toWire p (linkKey u) = .error r) :
    drive (n + 1) [.next now] s = drive n [.dropEntry p, .setSt .enterTransmit] (raise .eAlign [p.length] u) := by
  have : microStep (.next now) s = (raise .eAlign [p.length] u, [.dropEntry p, .setSt .enterTransmit]) := by
    simp only [microStep, nextToSend, hn, hw]
  rw [drive_cons, this]; rfl

/-- The removal and the write of `ST` (R275). -/
theorem drive_dropEntry (n : Nat) (s : State) (p : Buf) (b a : List Entry) (m : Entry) (st : SchedState)
    (h : splitFirst (isDispatched p) s.tq = some (b, m, a)) :
    drive (n + 2) [.dropEntry p, .setSt st] s = { s with tq := b ++ a, lock := .free, tick := [], st := st } := by
  have : microStep (.dropEntry p) s = ({ s with tq := b ++ a, lock := .free }, []) := by
    simp only [microStep, dropUnsent, atomic, h, release]
  rw [drive_cons, this]
  simp [drive, microStep]

/-- The transmission and the branch on its answer (R275 to R277). -/
theorem drive_transmit (n : Nat) (s : State) (now : Ticks) (p w : Buf) (ok : Bool) (as : List Bool)
    (h : s.txAnswers = ok :: as) :
    drive (n + 1) [.transmit p w now] s =
      if ok then
        drive n [.mark p now, .setSt (if qosOf p then .enterListen else .enterTransmit)]
          { s with txAnswers := as, tTx := now, fTxSeen := true, out := s.out ++ [.radioTransmit w] }
      else
        drive n [.reinit, .setSt .enterTransmit]
          (raise .eTxFail [(dstOf p).toNat, (seqOf p).toNat]
            { s with txAnswers := as, tTx := now, fTxSeen := true, out := s.out ++ [.radioTransmit w] }) := by
  cases ok <;>
    (rw [drive_cons]
     simp only [microStep, transmitPkt, askTransmit, h]
     rfl)

/-- The mark and the write of `ST` (R277). -/
theorem drive_mark (n : Nat) (s : State) (p : Buf) (now : Ticks) (b a : List Entry) (m : Entry) (st : SchedState)
    (h : splitFirst (isDispatched p) s.tq = some (b, m, a)) :
    drive (n + 2) [.mark p now, .setSt st] s =
      if qosOf m.pkt then
        { s with
          tq := b ++ { m with sentCount := bumpCount m, lastSent := now } :: a
          lock := .free, tick := [], st := st }
      else { s with tq := b ++ a, lock := .free, tick := [], st := st } := by
  have : microStep (.mark p now) s =
      ((if qosOf m.pkt then
          { s with
            tq := b ++ { m with sentCount := bumpCount m, lastSent := now } :: a
            lock := .free }
        else { s with tq := b ++ a, lock := .free }), []) := by
    simp only [microStep, markSent, atomic, h, release]
    split <;> rfl
  rw [drive_cons, this]
  dsimp only
  split <;> simp [drive, microStep]

/-- The re-initialisation and the write of `ST` (R276). -/
theorem drive_reinit (n : Nat) (s : State) (r : Bool) (is : List Bool) (st : SchedState) (h : s.initAnswers = r :: is)
    :
    drive (n + 2) [.reinit, .setSt st] s =
      { s with
        initAnswers := is, tick := [], st := st
        out := s.out ++ [.radioInitialize s.cfgSf] ++ if r then [] else [.log .eReinitFail []] } := by
  cases r <;> simp [drive, microStep, reinitRadio, askInitialize, h, emit, raise, logRec, fltMask]

/-- The acknowledgement sub-step, if there is one (R270). -/
theorem drive_ackSteps (n : Nat) (p : Buf) (u : State) (h : u.tick = []) :
    drive (n + 1) (ackSteps p) u = if qosOf p then enqueueAck p u else u := by
  unfold ackSteps
  split
  · simp only [drive, microStep, List.append_nil]
    have : (enqueueAck p u).tick = [] := by
      unfold enqueueAck
      dsimp only
      rcases enqueue_cases (pktOrEmpty (encodePkt u [seqOf p] u.params.tAck false false (localAddr u) (srcOf p))) (srcOf p)
        .highest false u with ⟨_, h'⟩ | ⟨_, _, h'⟩ | ⟨_, _, _, _, _, h'⟩ |
        ⟨_, _, _, _, h'⟩ | ⟨_, _, _, _, h'⟩ <;>
        rw [h'] <;> simpa [raise, logRec, emit] using h
    generalize enqueueAck p u = v at *
    cases v; simp_all
  · cases u; simp_all

/-- Every header row routes its encoding (R267). -/
theorem exec_hdr (i : Instr) (s : State) (h : i.format = .hdr) :
    5 ≤ (encode i).length ∧ exec i s = routeReceived (encode i) s := by
  cases i <;> first | (simp [Instr.format] at h; done) | exact ⟨by simp [encode, packHdr], rfl⟩

/-- A packet that routing ends with at once, whatever the script of interruptions says. -/
theorem routeReceived_done (p : Buf) (s u : State) (h : s.tick = []) (hu : u.tick = [])
    (hr : routePkt p (takeCut s).2 = (u, [])) : routeReceived p s = .next u := by
  obtain ⟨n, hn⟩ := Nat.exists_eq_succ_of_ne_zero (runLength_pos (takeCut s).1).ne'
  simp only [routeReceived, startTick, h, List.isEmpty_nil, if_true, runTick, hn, Nat.succ_eq_add_one, drive_cons, microStep,
    hr, List.nil_append, drive_nil]
  congr 1
  cases u; simp_all

/-- A packet whose routing goes on in further sub-steps, not interrupted. -/
theorem routeReceived_more (p : Buf) (s : State) (r : List (Option Nat)) (h : s.tick = []) (hp : s.preempt = none :: r) :
    routeReceived p s =
      .next (drive 15 (routePkt p { s with preempt := r }).2 (routePkt p { s with preempt := r }).1) := by
  rw [routeReceived, startTick_uncut _ _ r h hp, drive_cons]
  simp [microStep]

end Sys2Proof.Machine
end

