-- ==== Sys2Proof/Tests/Slice0.lean ====
section
/-! SUPPORT. Tests. Expected results are those of spec/95_test_vectors.md (a V number) or worked by hand from the rule named.
Then one witness per statement of the certificate that has hypotheses: concrete values that meet them, clause by clause. -/

namespace Sys2Proof.Tests

open Sys2Proof.Machine

/-! ## Well-formedness (R125 (e)): a value the port cannot carry is refused -/

theorem test_wf_refuses_wide_value : (Instr.cfgWr .key (2 ^ 256)).wellFormed = false := by decide
theorem test_wf_takes_greatest_value : (Instr.cfgWr .key (2 ^ 256 - 1)).wellFormed = true := by decide

/-- A selector of 8 is an operand of `CFG.WR` but no legal value (R282): `E_BADCFG`. -/
theorem test_decode_wide_value :
    decode .cmd ([0x38, 0x01, 0x08] ++ List.replicate 31 0) = .ok (.cfgWr .sf 8) := by decide

/-- Priority 3 as an operand of `TQ.ENQ` (R123). -/
theorem test_decode_refuses_priority_3 :
    decode .cmd [0x10, 0x01, 0x22, 0x00, 0x03, 0x03, 0x01] = .error .reservedCode := by decide

/-- Type 8 as a 3-bit operand of `PKT.ENCODE` (R112, R124). -/
theorem test_decode_refuses_type_8 :
    decode .cmd [0x01, 0x00, 0x08, 0x00, 0x00, 0x00, 0x00] = .error .operandRange := by decide

/-! ## Decoding: one word per constructor, written out from R111, R122 to R124, R129 -/

theorem test_decode_pktEncode : decode .cmd [0x01, 0x01, 0x68, 0x01, 0x69, 0x00, 0x02, 0x00, 0x01, 0x0E, 0x03] =
    .ok (.pktEncode [0x68, 0x69] 2 false true 14 3) := by decide
theorem test_decode_pktCsum : decode .cmd [0x02, 0x01, 0x22, 0x01, 0x00, 0x00] = .ok (.pktCsum [0x22, 0x00]) := by decide
theorem test_decode_pktCheck : decode .cmd [0x03, 0x01, 0xFF, 0x00] = .ok (.pktCheck [0xFF]) := by decide
theorem test_decode_pktToWire : decode .cmd [0x04, 0x01, 0x20, 0x00, 0x01, 0x01, 0x07, 0x00] =
    .ok (.pktToWire [0x20] (some [0x07])) := by decide
theorem test_decode_pktFromWire : decode .cmd [0x05, 0x01, 0x32, 0x01, 0x30, 0x00, 0x00] =
    .ok (.pktFromWire [0x32, 0x30] none) := by decide
theorem test_decode_pktFrag : decode .cmd [0x06, 0x01, 0x61, 0x00, 0x04, 0x01, 0x01, 0x0F] =
    .ok (.pktFrag [0x61] 4 true 1 15) := by decide
theorem test_decode_tqEnq : decode .cmd [0x10, 0x00, 0x03, 0x02, 0x01] = .ok (.tqEnq [] 3 .highest true) := by decide
theorem test_decode_tqPeek : decode .cmd [0x11, 0x01, 0x02, 0x03, 0x84] = .ok (.tqPeek 0x84030201) := by decide
theorem test_decode_tqNext : decode .cmd [0x12, 0x00, 0x01, 0x00, 0x00] = .ok (.tqNext 256) := by decide
theorem test_decode_tqMark : decode .cmd [0x13, 0x01, 0x22, 0x00, 0x07, 0x00, 0x00, 0x00] =
    .ok (.tqMark [0x22] 7) := by decide
theorem test_decode_tqRmkey : decode .cmd [0x14, 0x0F, 0xFF] = .ok (.tqRmkey 15 255) := by decide
theorem test_decode_tqClean : decode .cmd [0x15, 0xFF, 0xFF, 0xFF, 0xFF] = .ok (.tqClean 0xFFFFFFFF) := by decide
theorem test_decode_rtAccept : decode .cmd [0x20, 0x02, 0x01, 0x32, 0x00] = .ok (.rtAccept 2 [0x32]) := by decide
theorem test_decode_lsTick : decode .cmd [0x30, 0xF1, 0x00, 0x00, 0x00] = .ok (.lsTick 241) := by decide
theorem test_decode_lsSend : decode .cmd [0x31, 0x01, 0x68, 0x00, 0x02, 0x10, 0x01, 0x00] =
    .ok (.lsSend [0x68] 2 16 true false) := by decide
theorem test_decode_lsReset : decode .cmd [0x32] = .ok .lsReset := by decide
theorem test_decode_cfgWr : decode .cmd ([0x38, 0x04, 0xE8, 0x03] ++ List.replicate 30 0) =
    .ok (.cfgWr .timeout 1000) := by decide
theorem test_decode_cfgRd : decode .cmd [0x39, 0x07] = .ok (.cfgRd .flt) := by decide
/-- V31. -/
theorem test_decode_tPing : decode .hdr [0x20, 0x00, 0x1F, 0x3F, 0x00] =
    .ok (.tPing ⟨1, false, false, 0, 1, 15, 0x3F, 0⟩ []) := by decide
theorem test_decode_tOta : decode .hdr [0x39, 0x00, 0x21, 0x12, 0x0D, 0x63, 0x64] =
    .ok (.tOta ⟨1, true, true, 0, 2, 1, 0x12, 13⟩ [0x63, 0x64]) := by decide
/-- V6. -/
theorem test_decode_tData : decode .hdr [0x22, 0x00, 0x13, 0x30, 0x00, 0x68, 0x69] =
    .ok (.tData ⟨1, false, false, 0, 1, 3, 0x30, 0⟩ [0x68, 0x69]) := by decide
theorem test_decode_tAck : decode .hdr [0x23, 0x00, 0x31, 0x12, 0x00, 0x00] =
    .ok (.tAck ⟨1, false, false, 0, 3, 1, 0x12, 0⟩ [0x00]) := by decide
theorem test_decode_tId : decode .hdr [0xE4, 0x01, 0xF0, 0x00, 0x80, 0x55] =
    .ok (.tId ⟨7, false, false, 1, 15, 0, 0, 0x80⟩ [0x55]) := by decide
theorem test_decode_hdrReserved5 : decode .hdr [0x25, 0x00, 0x13, 0x00, 0x00] =
    .ok (.hdrReserved5 ⟨1, false, false, 0, 1, 3, 0, 0⟩ []) := by decide
theorem test_decode_hdrReserved6 : decode .hdr [0x16, 0x00, 0x13, 0x00, 0x00] =
    .ok (.hdrReserved6 ⟨0, true, false, 0, 1, 3, 0, 0⟩ []) := by decide
theorem test_decode_hdrReserved7 : decode .hdr [0x27, 0x00, 0x13, 0x35, 0x00, 0x68, 0x69] =
    .ok (.hdrReserved7 ⟨1, false, false, 0, 1, 3, 0x35, 0⟩ [0x68, 0x69]) := by decide
theorem test_decode_ackp : decode .ackp [0x07, 0x63] = .ok (.ackp 7) := by decide
theorem test_decode_stInit : decode .state [0x00, 0x01, 0x00, 0x00, 0x00] = .ok (.stInit 1) := by decide
theorem test_decode_stListening : decode .state [0x01, 0x02, 0x00, 0x00, 0x00] = .ok (.stListening 2) := by decide
theorem test_decode_stTransmitting : decode .state [0x02, 0x00, 0x00, 0x00, 0x80] =
    .ok (.stTransmitting 0x80000000) := by decide
theorem test_decode_stEnterListen : decode .state [0x03, 0x04, 0x00, 0x00, 0x00] = .ok (.stEnterListen 4) := by decide
theorem test_decode_stEnterTransmit : decode .state [0x04, 0x05, 0x00, 0x00, 0x00] = .ok (.stEnterTransmit 5) := by
  decide
theorem test_decode_prioLow : decode .prio [0x00, 0x01, 0x22, 0x00, 0x03, 0x00] = .ok (.prioLow [0x22] 3 false) := by
  decide
theorem test_decode_prioHigh : decode .prio [0x01, 0x00, 0x0E, 0x01] = .ok (.prioHigh [] 14 true) := by decide
theorem test_decode_prioHighest : decode .prio [0x02, 0x00, 0x00, 0x01] = .ok (.prioHighest [] 0 true) := by decide

/-- Table words: opcode 0x11, header 22 00 13 30 00, acknowledged number 7, state 3, priority 2. -/
theorem test_table_words :
    decodeTableWord 8 0x11 = some (.tqPeek 0) ∧
      decodeTableWord 40 0x2200133000 = some (.tData ⟨1, false, false, 0, 1, 3, 0x30, 0⟩ (List.replicate 0 0)) ∧
      decodeTableWord 8 7 = some (.ackp 7) ∧ decodeTableWord 3 3 = some (.stEnterListen 0) ∧
      decodeTableWord 2 2 = some (.prioHighest [] 0 false) := by decide

/-! ## Helpers: the outputs of an operation from an empty trace, and the state after it -/

/-- What an operation put out; nothing if it stopped. -/
def outs (i : Instr) (s : State) : List Out :=
  match exec i { s with out := [] } with
  | .next t => t.out
  | .fault _ => []
  | .refused _ => []

/-- The state after an operation; the reset state if it stopped. -/
def after (i : Instr) (s : State) : State :=
  match exec i s with
  | .next t => t
  | .fault _ => State.reset
  | .refused _ => State.reset

/-- Host 1, just after reset, its next operations not interrupted. -/
def host : State := { State.reset with cfgAddr := 1, preempt := [none, none] }

/-- Host 1 with `MAX_PAYLOAD = 4`. -/
def small : State := { host with params := { Params.default with mtu := 24 } }

/-- V2: DATA "hi" from 1 to 3, not sealed. -/
def hi : Buf := [0x22, 0x00, 0x13, 0x00, 0x00, 0x68, 0x69]

/-- V4: the same, sealed. -/
def hiSealed : Buf := [0x22, 0x00, 0x13, 0x30, 0x00, 0x68, 0x69]

/-- R270's example: reliable DATA "hi" from 3 to 1, number 7. -/
def rel : Buf := [0x32, 0x00, 0x31, 0x05, 0x07, 0x68, 0x69]

/-- An at-least-once entry to 3 with number 7, dispatched, sent `n` times, last at 100. -/
def pending (n : Byte) : Entry := ⟨[0x32, 0x00, 0x13, 0x27, 0x07, 0x68, 0x69], 3, .low, n, 100, 1000, 3, true⟩

/-- A best-effort entry never dispatched. -/
def fresh : Entry := ⟨hi, 3, .low, 0, 0, 1000, 3, false⟩

/-- 32 zero bytes: a key. -/
def key0 : Buf := List.replicate 32 0

/-- A sealed packet of 16 bytes (V13). -/
def hiPadded : Buf := [0x22, 0x09, 0x13, 0x39, 0x00, 0x68, 0x69, 0, 0, 0, 0, 0, 0, 0, 0, 0]

/-! ## One operation at a time -/

/-- R6: the defaults lie in their ranges. -/
theorem test_default_parameters : Params.default.Ok := by decide

/-- V2. -/
theorem test_encode_hi : outs (.pktEncode [0x68, 0x69] 2 false false 1 3) host = [.result 0x01 .ok (.pkt hi)] := by decide
/-- V13. -/
theorem test_encode_padded : outs (.pktEncode [0x68, 0x69] 2 false false 1 3) { host with cfgKeyEn := true } =
    [.result 0x01 .ok (.pkt [0x22, 0x09, 0x13, 0, 0, 0x68, 0x69, 0, 0, 0, 0, 0, 0, 0, 0, 0])] := by decide
/-- V3. -/
theorem test_csum_skips_byte_3 : outs (.pktCsum [0x22, 0x00, 0x13, 0xFF, 0x00, 0x68, 0x69]) host =
    [.result 0x02 .ok (.byte 0x30)] := by decide
/-- V8: the known limitation. -/
theorem test_check_swapped_bytes : outs (.pktCheck [0x22, 0x00, 0x13, 0x30, 0x00, 0x69, 0x68]) host =
    [.result 0x03 .ok (.bool true)] := by decide
/-- V10. -/
theorem test_check_zero_bytes : outs (.pktCheck [0, 0, 0, 0, 0]) host = [.result 0x03 .eVersion (.bool false)] := by decide
/-- V5: '22001330006869'. -/
theorem test_toWire_hi : outs (.pktToWire hiSealed none) host =
    [.result 0x04 .ok (.str [50, 50, 48, 48, 49, 51, 51, 48, 48, 48, 54, 56, 54, 57])] := by decide
/-- V19. -/
theorem test_toWire_short_key : outs (.pktToWire hiSealed (some (List.replicate 31 0))) host =
    [.result 0x04 .eKeylen (.str [])] := by decide
/-- V25, shortened to its first six bytes: '2a0013befe54'. -/
theorem test_fromWire_lower_case : outs (.pktFromWire [50, 97, 48, 48, 49, 51, 98, 101, 102, 101, 53, 52] none) host =
    [.result 0x05 .ok (.pkt [0x2A, 0x00, 0x13, 0xBE, 0xFE, 0x54])] := by decide
/-- V24: padlen 3 with two bytes after the header. -/
theorem test_fromWire_padlen : outs (.pktFromWire [50, 50, 48, 51, 49, 51, 51, 48, 48, 48, 54, 56, 54, 57] none) host =
    [.result 0x05 .ePadlen (.pkt [])] := by decide
/-- V28. -/
theorem test_frag_three : outs (.pktFrag [0x61, 0x62, 0x63, 0x64, 0x65, 0x66, 0x67, 0x68, 0x69, 0x6A] 2 true 1 3) small =
    [.result 0x06 .ok (.pkts [[0x3A, 0, 0x13, 0, 0, 0x61, 0x62, 0x63, 0x64], [0x3A, 0, 0x13, 0, 0, 0x65, 0x66, 0x67, 0x68],
      [0x32, 0, 0x13, 0, 0, 0x69, 0x6A]])] := by decide
/-- V29: no empty third fragment. -/
theorem test_frag_exact : outs (.pktFrag [1, 2, 3, 4, 5, 6, 7, 8] 2 true 1 3) small =
    [.result 0x06 .ok (.pkts [[0x3A, 0, 0x13, 0, 0, 1, 2, 3, 4], [0x32, 0, 0x13, 0, 0, 5, 6, 7, 8]])] := by decide
/-- V32. -/
theorem test_enq_order :
    ((after (.tqEnq [4, 0, 0, 0, 0] 3 .low false) (after (.tqEnq [3, 0, 0, 0, 0] 3 .high false)
      (after (.tqEnq [2, 0, 0, 0, 0] 3 .highest false) (after (.tqEnq [1, 0, 0, 0, 0] 3 .low false) host)))).tq.map
        fun e => byteAt e.pkt 0) = [2, 3, 1, 4] := by decide
/-- V40: the cap refuses a droppable DATA packet. R38: a packet longer than `MTU`. -/
theorem test_enq_refusals :
    outs (.tqEnq hi 3 .low true) { host with params := { Params.default with qCap := 2 }, tq := [fresh, fresh] } =
        [.result 0x10 .eQfull .none] ∧
      outs (.tqEnq (List.replicate 25 0) 3 .low false) small = [.result 0x10 .eBadCmd .none] := by decide
/-- V40: the physical depth. -/
theorem test_prioLow_depth : outs (.prioLow hi 3 false)
    { host with params := { Params.default with qCap := 1, qDepth := some 1 }, tq := [fresh] } =
      [.log .eQovf [1], .result 0x10 .eQovf .none] := by decide
/-- R192: HIGH goes behind HIGHEST and ahead of LOW. -/
theorem test_prioHigh_place : ((after (.prioHigh hi 3 false)
    { host with tq := [{ fresh with prio := .highest }, fresh] }).tq.map (·.prio)) = [.highest, .high, .low] := by decide
/-- R192: HIGHEST goes behind an earlier HIGHEST. -/
theorem test_prioHighest_place : ((after (.prioHighest hi 4 false)
    { host with tq := [{ fresh with prio := .highest }, fresh] }).tq.map (·.dest)) = [3, 4, 3] := by decide
/-- R194's example. -/
theorem test_peek_timeout :
    outs (.tqPeek 500) { host with tq := [pending 1] } = [.result 0x11 .ok (.bool false)] ∧
      outs (.tqPeek 1100) { host with tq := [pending 1] } = [.result 0x11 .ok (.bool true)] := by decide
/-- V33. -/
theorem test_next_dispatches : outs (.tqNext 0) (setSeq 3 255 { host with tq := [fresh] }) =
    [.result 0x12 .ok (.optPkt (some [0x22, 0x00, 0x13, 0xCF, 0xFF, 0x68, 0x69]))] := by decide
/-- V33: after 255 comes 0. -/
theorem test_next_wraps_counter :
    seqAt (after (.tqNext 0) (setSeq 3 255 { host with tq := [fresh] })) 3 = 0 := by decide
/-- V35: a best-effort entry leaves. -/
theorem test_mark_best_effort :
    (after (.tqMark hiSealed 7) { host with tq := [{ fresh with pkt := hiSealed, seqAssigned := true }] }).tq = [] := by
  decide
/-- R197's example; and R39 (d): a mark beyond the budget of 3 leaves the count at 4. -/
theorem test_mark_reliable :
    ((after (.tqMark (pending 0).pkt 200) { host with tq := [pending 0] }).tq.map fun e => (e.sentCount, e.lastSent)) =
        [(1, 200)] ∧
      ((after (.tqMark (pending 4).pkt 200) { host with tq := [pending 4] }).tq.map fun e => (e.sentCount, e.lastSent)) =
        [(4, 200)] := by decide
/-- V38. -/
theorem test_rmkey_removes : (after (.tqRmkey 3 7) { host with tq := [pending 1] }).tq = [] := by decide
/-- V39. -/
theorem test_rmkey_undispatched : outs (.tqRmkey 3 0) { host with tq := [fresh] } =
    [.log .wNoMatch [3, 0], .result 0x14 .wNoMatch .none] := by decide
/-- R199's example, with the last attempt at 100: 1099 keeps, 1100 drops. -/
theorem test_clean_after_timeout :
    outs (.tqClean 1099) { host with tq := [pending 4] } = [.result 0x15 .ok (.count 0)] ∧
      outs (.tqClean 1100) { host with tq := [pending 4] } =
        [.log .eRetryExh [3, 7], .result 0x15 .ok (.count 1)] := by decide
/-- R269: the acknowledged number retires the entry to the acknowledgement's sender. -/
theorem test_ackp_retires : (after (.ackp 7) { host with tq := [pending 1], rx := ⟨0, 3⟩ }).tq = [] := by decide
/-- R269: a late acknowledgement is logged and ignored. -/
theorem test_ackp_late : outs (.ackp 7) { host with tq := [pending 1], rx := ⟨0, 4⟩ } = [.log .wNoMatch [4, 7]] := by
  decide
/-- V41. -/
theorem test_accept_twice : outs (.rtAccept 2 [0x32, 0x00, 0x21, 0x55, 0x07, 0x41])
    (after (.rtAccept 2 [0x32, 0x00, 0x21, 0x55, 0x07, 0x41]) host) =
      [.log .wDup [2, 7], .result 0x20 .ok (.optMsg none)] := by decide
/-- V46, with V44 and V45 buffered. -/
theorem test_accept_final : outs (.rtAccept 2 [0x32, 0x00, 0x21, 0x78, 0x0E, 0x65])
    (setTracker 2 ⟨true, [0x39, 0x00, 0x21, 0x12, 0x0D, 0x63, 0x64],
      [[0x3A, 0x00, 0x21, 0x13, 0x0B, 0x61, 0x62], [0x39, 0x00, 0x21, 0x12, 0x0D, 0x63, 0x64]]⟩ host) =
      [.log .wFragType [2], .log .wFragSeq [2],
        .result 0x20 .ok (.optMsg (some ([0x61, 0x62, 0x63, 0x64, 0x65], 2)))] := by decide
/-- V48: the overflow is the result code (R326). -/
theorem test_accept_overflow : outs (.rtAccept 2 [0x2A, 0x00, 0x21, 0x2F, 0x16, 0x32])
    (setTracker 2 ⟨true, [0x2A, 0x00, 0x21, 0x2F, 0x15, 0x31], [[0x2A, 0x00, 0x21, 0x2F, 0x14, 0x30],
      [0x2A, 0x00, 0x21, 0x2F, 0x15, 0x31]]⟩ { host with params := { Params.default with fragMax := some 2 } }) =
      [.log .eFragOvf [2], .result 0x20 .eFragOvf (.optMsg none)] := by decide
/-- V52, V61. -/
theorem test_tick_init : (after (.lsTick 0) host).st = .enterListen ∧ outs (.lsTick 0) host = [.result 0x30 .ok .none] ∧
    (after (.lsTick 9) { host with st := .transmitting }).flt = 0x01 := by decide
/-- R87: cut after two sub-steps, the tick stops short of its end; resumed, it ends as V52. -/
theorem test_tick_interrupted :
    (after (.lsTick 0) { host with preempt := [some 1, none] }).tick = [.setSt .enterListen, .finish] ∧
      (resumeTick (after (.lsTick 0) { host with preempt := [some 1, none] })).st = .enterListen := by decide
/-- R87, R386: a send cut before its second enqueue. -/
theorem test_send_interrupted :
    (after (.lsSend [1, 2, 3, 4, 5] 2 3 false true) { small with preempt := [some 1] }).sends =
      [⟨[[0x22, 0, 0x13, 0, 0, 5]], 3, 0⟩] := by decide
/-- R279's example, and an empty message. -/
theorem test_send_hi :
    ((after (.lsSend [0x68, 0x69] 2 3 false true) host).tq.map fun e => (e.pkt, e.dest, e.prio)) = [(hi, 3, .low)] ∧
      outs (.lsSend [] 2 3 false true) host = [.result 0x31 .eEmpty (.bool false)] := by decide
/-- R281, R370 (b): the counters are cleared, the configuration stays. -/
theorem test_reset_keeps_configuration :
    seqAt (after .lsReset (setSeq 3 9 host)) 3 = 0 ∧ (after .lsReset (setSeq 3 9 host)).cfgAddr = 1 := by decide
/-- R371. -/
theorem test_reset_mid_tick : outs .lsReset { host with tick := [.finish] } = [] := by decide
/-- R282: locked once the scheduler runs; an illegal value of a locked register is `E_CFGLOCK`, of an unlocked one `E_BADCFG`. -/
theorem test_cfgWr_order : outs (.cfgWr .promisc 1) { host with st := .listening } = [.result 0x38 .eCfgLock .none] ∧
    outs (.cfgWr .sf 8) { host with st := .listening } = [.result 0x38 .eCfgLock .none] ∧
    outs (.cfgWr .sf 8) host = [.result 0x38 .eBadCfg .none] := by decide
/-- R37: 255 is no retry budget. -/
theorem test_cfgWr_illegal : outs (.cfgWr .maxRetry 255) host = [.result 0x38 .eBadCfg .none] := by decide
/-- R283: the key is write-only. -/
theorem test_cfgRd_key : outs (.cfgRd .key) host = [.result 0x39 .eBadCmd .none] := by decide
/-- R283. -/
theorem test_cfgRd_addr : outs (.cfgRd .addr) host = [.result 0x39 .ok (.value 1)] := by decide
/-- R269: a ping is delivered; the packet is V31's, to everybody, from host 1. -/
theorem test_ping_delivers : outs (.tPing ⟨1, false, false, 0, 1, 15, 0x3F, 0⟩ []) { host with knowns := [true] } =
    [.regObserve [0x20, 0x00, 0x1F, 0x3F, 0x00] 0, .cbDeliver [] 0 0] := by decide
/-- R269: an OTA message is delivered with its type. -/
theorem test_ota_delivers : outs (.tOta ⟨1, false, false, 0, 2, 1, 0x44, 0⟩ [0x44]) { host with knowns := [true] } =
    [.regObserve [0x21, 0x00, 0x21, 0x44, 0x00, 0x44] 0, .cbDeliver [0x44] 1 1] := by decide
/-- R270's example: the acknowledgement. -/
theorem test_data_acknowledged :
    ((after (.tData ⟨1, true, false, 0, 3, 1, 5, 7⟩ [0x68, 0x69]) { host with knowns := [true] }).tq.map
      fun e => (e.pkt, e.dest, e.prio)) = [([0x23, 0x00, 0x13, 0x00, 0x00, 0x07], 3, .highest)] := by decide
/-- R268: a packet for another host. -/
theorem test_data_not_for_me : outs (.tData ⟨1, false, false, 0, 1, 3, 0x30, 0⟩ [0x68, 0x69]) host =
    [.log .wNotForMe [3]] := by decide
/-- R269: an acknowledgement of number 7 from host 3. -/
theorem test_ack_retires :
    (after (.tAck ⟨1, false, false, 0, 3, 1, 0x15, 0⟩ [7]) { host with tq := [pending 1], knowns := [true] }).tq = [] := by
  decide
/-- R269: an ID packet goes to the registry although the sender is unknown. -/
theorem test_id_unknown_sender : outs (.tId ⟨1, false, false, 0, 15, 1, 0xD5, 0⟩ []) { host with knowns := [false] } =
    [.regObserve [0x24, 0x00, 0xF1, 0xD5, 0x00] 0, .regIdPacket [0x24, 0x00, 0xF1, 0xD5, 0x00]] := by decide
/-- R125 (a), the packet sealed. -/
theorem test_reserved5 : outs (.hdrReserved5 ⟨1, false, false, 0, 1, 3, 0x36, 0⟩ []) host = [.log .eType [5]] := by decide
/-- R125 (a), the packet sealed. -/
theorem test_reserved6 : outs (.hdrReserved6 ⟨1, false, false, 0, 1, 3, 0x35, 0⟩ []) host = [.log .eType [6]] := by decide
/-- V9. -/
theorem test_reserved7 : outs (.hdrReserved7 ⟨1, false, false, 0, 1, 3, 0x35, 0⟩ [0x68, 0x69]) host = [.log .eType [7]] := by
  decide
/-- R262. -/
theorem test_stInit : (after (.stInit 0) host).st = .enterListen := by decide
/-- V53. -/
theorem test_stEnterListen : outs (.stEnterListen 1) { host with draws := [30] } = [.radioEnterPassiveListen] ∧
    (after (.stEnterListen 1) { host with draws := [30] }).jit = 30 := by decide
/-- V55: one tick before the window ends, and at its end. -/
theorem test_stListening :
    (after (.stListening 240) { host with tListen := 1, jit := 30, polls := [.noEvent] }).st = .listening ∧
      (after (.stListening 241) { host with tListen := 1, jit := 30, polls := [.noEvent] }).st = .enterTransmit := by
  decide
/-- V57: 600 is not above the transmit window; V60: the gap. -/
theorem test_stEnterTransmit :
    (after (.stEnterTransmit 263) { host with tRx := 260, fTxSeen := true, tTx := 262, tq := [fresh] }).st =
        .enterTransmit ∧
      (after (.stEnterTransmit 272) { host with tRx := 260, fTxSeen := true, tTx := 262, tq := [fresh] }).st =
        .transmitting := by decide
/-- V62. -/
theorem test_stTransmitting_misaligned :
    (after (.stTransmitting 9) { host with cfgKeyEn := true, tq := [fresh] }).flt = 0x20 := by decide
/-- V65. -/
theorem test_stTransmitting_failure :
    outs (.stTransmitting 9) { host with tq := [pending 0], txAnswers := [false], initAnswers := [false] } =
      [.radioTransmit (hex (pending 0).pkt), .log .eTxFail [3, 7], .radioInitialize 0, .log .eReinitFail []] := by decide

/-! ## Witnesses: values that meet the hypotheses of a statement, clause by clause -/

/-- An operation that is none of those a statement excepts. -/
def plain : Instr := .pktCsum hi

theorem witness_DecodeEncodeAgree :
    (Instr.cfgWr .key (2 ^ 256 - 1)).wellFormed = true ∧ Instr.lsReset.wellFormed = true ∧
      (Instr.tData ⟨7, true, true, 255, 15, 15, 255, 255⟩ []).wellFormed = true := by decide
theorem witness_HeaderBitsSurvive : 5 ≤ ([0xE7, 1, 2, 3, 4] : Buf).length := by decide
theorem witness_UnassignedCodesDecodeToNothing :
    (0x07 : Byte) ∉ ([0x01, 0x02, 0x03, 0x04, 0x05, 0x06, 0x10, 0x11, 0x12, 0x13, 0x14, 0x15, 0x20, 0x30, 0x31, 0x32, 0x38,
      0x39] : List Byte) ∧ 5 ≤ (5 : Byte).toNat ∧ (7 : Byte).toNat ≤ 7 ∧ 2 ≤ (2 : Byte).toNat ∧ 16 ≤ (16 : Byte).toNat ∧
      8 ≤ (8 : Byte).toNat ∧ decode .cmd [0x32, 0xFF] = .ok .lsReset := by decide

/-- A reset command waits on the port. -/
def waiting : State := { host with port := [⟨.cmd, [0x32], 1⟩] }

/-- Agent 2's tick is in progress; behind a command of agent 2 a reset of agent 1 waits, and the port has the turn. -/
def midTick : State :=
  { host with
    tick := [.finish], tickIssuer := 2, turns := [.port, .tick]
    port := [⟨.cmd, [0x30, 0, 0, 0, 0], 2⟩, ⟨.cmd, [0x39, 0], 1⟩] }

/-- R90, R87: the second tick of the agent waits for its first; the command of another agent runs. -/
theorem test_second_tick_waits :
    answersNext (step midTick) = true ∧ (nextFrame midTick).map (fun r => r.2.1.agent) = some 1 ∧
      nextFrame { midTick with port := [⟨.cmd, [0x30, 0, 0, 0, 0], 2⟩] } = none := by decide

theorem witness_StepRunsDecodedInstruction :
    (waiting.port = [] ++ ⟨.cmd, [0x32], 1⟩ :: [] ∧ busy waiting 1 = false ∧ decode .cmd [0x32] = .ok .lsReset ∧
      waiting.tick = [] ∧ waiting.sends = []) ∧
      midTick.port = [⟨.cmd, [0x30, 0, 0, 0, 0], 2⟩] ++ ⟨.cmd, [0x39, 0], 1⟩ :: [] ∧ busy midTick 2 = true ∧
      busy midTick 1 = false ∧ decode .cmd [0x39, 0] = .ok (.cfgRd .addr) ∧ ¬(midTick.tick = [] ∧ midTick.sends = []) ∧
      midTick.turns = .port :: [.tick] := by decide
theorem witness_StepRefusesUndecodableFrame :
    ({ host with port := [⟨.cmd, [0x07], 1⟩] }.port = [] ++ ⟨.cmd, [0x07], 1⟩ :: [] ∧ busy host 1 = false ∧
      decode .cmd [0x07] = .error .unknownOpcode ∧ host.tick = [] ∧ host.sends = []) ∧
      { midTick with port := [⟨.cmd, [0x07], 1⟩] }.port = [] ++ ⟨.cmd, [0x07], 1⟩ :: [] ∧ busy midTick 1 = false ∧
      ¬(midTick.tick = [] ∧ midTick.sends = []) ∧ midTick.turns = .port :: [.tick] := by decide
theorem witness_StepFollowsTurns :
    (host.tick = [] ∧ host.sends = [] ∧ host.port = []) ∧
      ¬({ host with tick := [.finish], turns := [.tick] }.tick = [] ∧ host.sends = []) ∧
      ¬(host.tick = [] ∧ { host with sends := [⟨[hi], 3, 1⟩], turns := [.send 0] }.sends = []) ∧
      (midTick.tick ≠ [] ∧ 2 = midTick.tickIssuer) ∧ midTick.turns = .port :: [.tick] ∧
      ∃ t, step midTick = .next t := ⟨by decide, by decide, by decide, by decide, by decide, _, rfl⟩
theorem witness_InterruptedTickEndsAlike : { host with preempt := [some 0, some 3] }.tick = [] := by decide
theorem witness_PktEncodeResult : { host with cfgKeyEn := true }.cfgKeyEn = true := by decide
theorem witness_PktFromWireResult :
    unhex [0x30] = none ∧ unhex (hex hiSealed) = some hiSealed ∧ unhex (hex hiPadded) = some hiPadded ∧
      key0.length = 32 ∧ hiPadded.length % 16 = 0 ∧ (List.replicate 31 (0 : Byte)).length ≠ 32 ∧
      hiSealed.length % 16 ≠ 0 := by decide
theorem witness_PktFragResult :
    21 ≤ { Params.default with mtu := 21 }.mtu ∧ ([] : Buf) = [] ∧ ([0x61] : Buf) ≠ [] := by decide
theorem witness_SealedPacketPassesCheck :
    5 ≤ ([1, 2, 3, 4, 5] : Buf).length ∧ small.params.versionCur ∈ small.params.knownVersions ∧
      ([1, 2, 3, 4] : Buf).length ≤ small.params.maxPayload := by decide
theorem witness_SingleByteCorruptionDetected :
    5 ≤ hiSealed.length ∧ xorAll hiSealed = 0 ∧ 6 < hiSealed.length ∧ hiSealed[6]? ≠ some 0 := by decide
theorem witness_WireRoundTrip :
    (5 ≤ hiSealed.length ∧ (padlenOf hiSealed).toNat ≤ hiSealed.length - 5 ∧ (padlenOf hiPadded).toNat = 9 ∧
      9 ≤ hiPadded.length - 5) ∧ ∀ k ∈ some key0, k.length = 32 ∧ hiPadded.length % 16 = 0 := by decide

/-! ### The queue -/

/-- `Q_CAP = 1`, `Q_DEPTH = 2`. -/
def narrow : State := { host with params := { Params.default with qCap := 1, qDepth := some 2 } }

theorem witness_TqEnqResult :
    (Instr.prioHigh hi 3 true = .prioHigh hi 3 true ∧ Prio.high = .high) ∧ ([1, 2, 3, 4] : Buf).length < 5 ∧
      5 ≤ hi.length ∧ hi.length ≤ narrow.params.mtu ∧ small.params.mtu < (List.replicate 25 (0 : Byte)).length ∧
      (typeOf hi ∉ narrow.params.exemptTypes ∧ narrow.params.qCap ≤ { narrow with tq := [fresh] }.tq.length) ∧
      (typeOf [3, 0, 0, 0, 0] ∈ narrow.params.exemptTypes ∧ 2 ≤ { narrow with tq := [fresh, fresh] }.tq.length) ∧
      ¬narrow.params.qCap ≤ narrow.tq.length ∧ narrow.params.qDepth = some 2 ∧ ¬2 ≤ narrow.tq.length := by decide
theorem witness_TqNextResult :
    (∀ e ∈ { host with tq := [pending 1] }.tq, sendable e 1099 = false) ∧
      { host with tq := [pending 1, fresh] }.tq = [pending 1] ++ fresh :: [] ∧ sendable fresh 500 = true ∧
      (∀ x ∈ [pending 1], sendable x 500 = false) ∧ fresh.seqAssigned = false ∧
      sendable (pending 3) 1100 = true ∧ (pending 3).seqAssigned = true := by decide
theorem witness_TqMarkResult :
    (∀ e ∈ { host with tq := [fresh] }.tq, ¬(e.seqAssigned = true ∧ e.pkt = hi)) ∧
      { host with tq := [fresh, pending 3] }.tq = [fresh] ++ pending 3 :: [] ∧ (pending 3).seqAssigned = true ∧
      (∀ x ∈ [fresh], ¬(x.seqAssigned = true ∧ x.pkt = (pending 3).pkt)) ∧ qosOf (pending 3).pkt = true ∧
      (pending 3).sentCount.toNat ≤ (pending 3).maxRetry.toNat ∧ (pending 3).sentCount ≠ 255 ∧
      { fresh with seqAssigned := true }.seqAssigned = true ∧ qosOf hi = false := by decide
theorem witness_TqRmkeyResult :
    (∀ e ∈ { host with tq := [fresh] }.tq, ¬(e.seqAssigned = true ∧ e.dest = 3 ∧ seqOf e.pkt = 0)) ∧
      { host with tq := [fresh, pending 1] }.tq = [fresh] ++ pending 1 :: [] ∧ (pending 1).seqAssigned = true ∧
      (pending 1).dest = 3 ∧ seqOf (pending 1).pkt = 7 ∧
      ∀ x ∈ [fresh], ¬(x.seqAssigned = true ∧ x.dest = 3 ∧ seqOf x.pkt = 7) := by decide
theorem witness_AckpRetiresEntry :
    (∀ e ∈ { host with tq := [pending 1] }.tq, ¬(e.seqAssigned = true ∧ e.dest = host.rx.sender ∧ seqOf e.pkt = 7)) ∧
      { host with tq := [fresh, pending 1], rx := ⟨0, 3⟩ }.tq = [fresh] ++ pending 1 :: [] ∧
      (pending 1).seqAssigned = true ∧ (pending 1).dest = { host with rx := ⟨0, 3⟩ }.rx.sender ∧
      seqOf (pending 1).pkt = 7 ∧ ∀ x ∈ [fresh], ¬(x.seqAssigned = true ∧ x.dest = 3 ∧ seqOf x.pkt = 7) := by decide
theorem witness_EnqueueOrderIsPriorityThenArrival :
    narrow.tq = [] ∧ (∀ q ∈ ([(hi, 3, .low), (hiSealed, 4, .highest)] : List (Buf × Addr × Prio)),
        5 ≤ q.1.length ∧ q.1.length ≤ narrow.params.mtu) ∧
      ∀ d ∈ narrow.params.qDepth, ([(hi, 3, .low), (hiSealed, 4, .highest)] : List (Buf × Addr × Prio)).length ≤ d := by
  decide
theorem witness_ReliablePacketIsRetriedThenDropped :
    { host with tq := [pending 0] }.tq = [pending 0] ∧ (pending 0).seqAssigned = true ∧ qosOf (pending 0).pkt = true ∧
      (pending 0).sentCount = 0 ∧ (pending 0).maxRetry.toNat ≤ 254 ∧ ([5, 1005, 2005, 3010] : List Ticks) ≠ [] ∧
      ([5, 1005, 2005, 3010] : List Ticks).length = (pending 0).maxRetry.toNat + 1 ∧
      ([5, 1005, 2005, 3010] : List Ticks).IsChain (fun a b => (pending 0).timeout.toNat ≤ (b - a).toNat) ∧
      (pending 0).timeout.toNat ≤ ((4010 : Ticks) - 3010).toNat ∧
      ((4009 : Ticks) - 3010).toNat < (pending 0).timeout.toNat := by decide
theorem witness_EntriesLeaveOnlyByRule :
    (∃ t, exec (.tqNext 0) host = .next t) ∧ (∃ t, exec plain host = .next t) ∧ (∀ n, plain ≠ .tqNext n) ∧
      (∀ p n, plain ≠ .tqMark p n) ∧ (∀ d q, plain ≠ .tqRmkey d q) ∧ (∀ n, plain ≠ .tqClean n) ∧ (∀ n, plain ≠ .ackp n) ∧
      (plain.format = .hdr → typeOf (encode plain) ≠ host.params.tAck) ∧ (∀ n, plain ≠ .lsTick n) ∧
      (∀ n, plain ≠ .stListening n) ∧
      (∀ n, plain ≠ .stTransmitting n) ∧ plain ≠ .lsReset :=
  ⟨⟨_, rfl⟩, ⟨_, rfl⟩, nofun, nofun, nofun, nofun, nofun, nofun, nofun, nofun, nofun, nofun⟩

/-! ### The tracker -/

/-- Tracker 3 holds a packet with number 7 and two fragments; room for two. -/
def tracking : State :=
  setTracker 3 ⟨true, rel, [[0x2A, 0, 0x31, 0, 5, 0x61], [0x2A, 0, 0x31, 0, 6, 0x62]]⟩
    { host with params := { Params.default with fragMax := some 2 } }

theorem witness_RtDuplicateIsIgnored :
    (tracking.rt[3]).lastValid = true ∧ (tracking.rt[3]).last = rel := by decide
theorem witness_RtSplitFragmentIsBuffered :
    ¬((tracking.rt[3]).lastValid = true ∧ (tracking.rt[3]).last = [0x2A, 0, 0x31, 0, 9, 0x63]) ∧
      splitOf [0x2A, 0, 0x31, 0, 9, 0x63] = true ∧ tracking.params.fragMax = some 2 ∧ 2 ≤ (tracking.rt[3]).frags.length ∧
      ∀ m ∈ tracking.params.fragMax, (tracking.rt[4]).frags.length < m := by decide
theorem witness_RtSinglePacketIsReturned :
    ¬((tracking.rt[4]).lastValid = true ∧ (tracking.rt[4]).last = hi) ∧ splitOf hi = false ∧
      (tracking.rt[4]).frags = [] := by decide
theorem witness_RtFinalFragmentClosesRun :
    ¬((tracking.rt[3]).lastValid = true ∧ (tracking.rt[3]).last = hi) ∧ splitOf hi = false ∧
      (tracking.rt[3]).frags = [0x2A, 0, 0x31, 0, 5, 0x61] :: [[0x2A, 0, 0x31, 0, 6, 0x62]] := by decide

/-- `MAX_PAYLOAD = 4` and room for two fragments. -/
def twoFrags : State := { host with params := { Params.default with mtu := 24, fragMax := some 2 } }

theorem witness_FragmentsReassemble :
    21 ≤ twoFrags.params.mtu ∧ ([1, 2, 3, 4, 5, 6, 7, 8, 9] : Buf) ≠ [] ∧ (twoFrags.rt[1]).frags = [] ∧
      (∀ m ∈ twoFrags.params.fragMax,
        ((fragPkts twoFrags [1, 2, 3, 4, 5, 6, 7, 8, 9] 2 true 1 3).mapIdx fun i p =>
          sealPkt (p.set 4 (255 + BitVec.ofNat 8 i))).length ≤ m + 1) ∧ (twoFrags.rt[1]).lastValid = false := by decide

/-! ### The scheduler -/

theorem witness_LsTickCleansThenRunsHandler : host.tick = [] ∧ host.preempt = none :: [none] := by decide
theorem witness_TickFollowsTransitionTable :
    { host with st := .transmitting }.tick = [] ∧ { host with st := .transmitting }.preempt = none :: [none] := by decide
theorem witness_StInitGoesToEnterListen : host.tick = [] ∧ host.preempt = none :: [none] := by decide
theorem witness_StEnterListenStartsWindow :
    { host with draws := [100] }.tick = [] ∧ { host with draws := [100] }.preempt = none :: [none] ∧
      { host with draws := [100] }.draws = 100 :: [] ∧ (100 : Ticks).toNat ≤ (minListen host).toNat := by decide
theorem witness_StListeningWithoutPacket :
    host.tick = [] ∧ host.preempt = none :: [none] ∧ { host with polls := [.unknown] }.polls = .unknown :: [] ∧
      (∀ w q, PollAnswer.unknown ≠ .received w q) ∧ (∀ w q, PollAnswer.timeout ≠ .received w q) ∧
      ∀ w q, PollAnswer.noEvent ≠ .received w q :=
  ⟨rfl, rfl, rfl, nofun, nofun, nofun⟩
theorem witness_StListeningRoutesPacket :
    host.tick = [] ∧ host.preempt = none :: [none] ∧
      { host with polls := [.received (hex hiSealed) (-80)] }.polls = .received (hex hiSealed) (-80) :: [] ∧
      fromWire (hex hiSealed) (linkKey host) = .ok hiSealed ∧
      fromWire [0x30] (linkKey host) = .error ⟨.eHex, [1]⟩ := ⟨rfl, rfl, rfl, rfl, rfl⟩

/-- Host 1 that left `LISTENING` at 260 and transmitted at 262. -/
def sending : State := { host with tRx := 260, fTxSeen := true, tTx := 262, tq := [fresh] }

theorem witness_StEnterTransmitDecides :
    (sending.tick = [] ∧ sending.preempt = none :: [none]) ∧
      ((minListen sending).toNat + sending.params.maxTxWindow < ((861 : Ticks) - sending.tRx).toNat ∧
        sending.params.minGap ≤ ((861 : Ticks) - sending.tTx).toNat) ∧
      ((minListen sending).toNat + sending.params.maxTxWindow < ((861 : Ticks) - sending.tRx).toNat ∧
        ¬({ sending with tTx := 852 }.fTxSeen = false ∨
          sending.params.minGap ≤ ((861 : Ticks) - { sending with tTx := 852 }.tTx).toNat)) ∧
      (¬(minListen sending).toNat + sending.params.maxTxWindow < ((860 : Ticks) - sending.tRx).toNat ∧
        (∃ e ∈ sending.tq, sendable e 860 = true) ∧ sending.params.minGap ≤ ((272 : Ticks) - sending.tTx).toNat) ∧
      ¬sending.params.minGap ≤ ((271 : Ticks) - sending.tTx).toNat ∧
      ¬∃ e ∈ { sending with tq := [] }.tq, sendable e 271 = true := by decide

/-- Host 1 with a key. -/
def keyed : State := { host with cfgKeyEn := true, tq := [fresh] }

/-- An entry a keyed host can send. -/
def padded : Entry := { fresh with pkt := hiPadded }

theorem witness_StTransmittingWithoutTransmission :
    host.tick = [] ∧ host.preempt = none :: [none] ∧ (∀ e ∈ { host with tq := [pending 1] }.tq, sendable e 1099 = false) ∧
      keyed.tq = [] ++ fresh :: [] ∧ sendable fresh 9 = true ∧ (∀ x ∈ ([] : List Entry), sendable x 9 = false) ∧
      5 ≤ fresh.pkt.length ∧ keyed.cfgKeyEn = true ∧ fresh.pkt.length % 16 ≠ 0 ∧
      [] ++ { fresh with pkt := hiSealed, seqAssigned := true } :: [] =
        [] ++ { fresh with pkt := hiSealed, seqAssigned := true } :: [] ∧
      hiSealed = sealPkt (fresh.pkt.set 4 (keyed.seq[fresh.dest.toNat]'fresh.dest.isLt)) := by decide
theorem witness_StTransmittingAttempt :
    (host.tick = [] ∧ host.preempt = none :: [none]) ∧ [fresh] = [] ++ fresh :: [] ∧ sendable fresh 9 = true ∧
      5 ≤ fresh.pkt.length ∧ 5 ≤ padded.pkt.length ∧ padded.pkt.length % 16 = 0 ∧
      { host with txAnswers := [false], initAnswers := [true] }.txAnswers = false :: [] ∧
      { host with txAnswers := [false], initAnswers := [true] }.initAnswers = true :: [] ∧
      { host with txAnswers := [true] }.txAnswers = true :: [] ∧ qosOf hiSealed = false ∧
      hiSealed = sealPkt (fresh.pkt.set 4 (host.seq[fresh.dest.toNat]'fresh.dest.isLt)) ∧
      qosOf (pending 0).pkt = true ∧ sendable (pending 0) 9 = true ∧ (pending 0).seqAssigned = true := by decide

/-! ### Received packets -/

/-- V6's packet as a row. -/
def dataRow : Instr := .tData ⟨1, false, false, 0, 1, 3, 0x30, 0⟩ [0x68, 0x69]

theorem witness_DroppedPacketChangesNothing :
    dataRow.format = .hdr ∧ host.tick = [] ∧
      xorAll (encode (.tData ⟨1, false, false, 0, 1, 3, 0x31, 0⟩ [0x68, 0x69])) ≠ 0 ∧
      (xorAll (encode (.hdrReserved5 ⟨1, false, false, 0, 1, 3, 0x36, 0⟩ [])) = 0 ∧
        typeOf (encode (.hdrReserved5 ⟨1, false, false, 0, 1, 3, 0x36, 0⟩ [])) ∉ host.params.knownTypes) ∧
      (xorAll (encode (.tPing ⟨0, false, false, 0, 0, 0, 0, 0⟩ [])) = 0 ∧
        versionOf (encode (.tPing ⟨0, false, false, 0, 0, 0, 0, 0⟩ [])) ∉ host.params.knownVersions) ∧
      ¬(xorAll (encode dataRow) ≠ 0 ∨ typeOf (encode dataRow) ∉ host.params.knownTypes ∨
        versionOf (encode dataRow) ∉ host.params.knownVersions) ∧
      ¬(host.cfgPromisc = true ∨ dstOf (encode dataRow) = host.cfgAddr.extractLsb' 0 4 ∨ dstOf (encode dataRow) = 15) ∧
      { host with cfgPromisc := true }.cfgPromisc = true ∧ typeOf (encode dataRow) ≠ host.params.tId ∧
      { host with knowns := [false] }.knowns = false :: [] := by decide
theorem witness_ReservedTypeIsDropped :
    host.tick = [] ∧ (∀ c ∈ host.params.knownTypes, c.toNat ≤ 4) ∧ Instr.hdrReserved6 ⟨1, false, false, 0, 1, 3, 0x35, 0⟩ [] =
      .hdrReserved6 ⟨1, false, false, 0, 1, 3, 0x35, 0⟩ [] := by decide

/-- Host 3, whose registry knows the next sender. -/
def receiver : State := { host with cfgAddr := 3, knowns := [true] }

theorem witness_MessagePacketReachesTracker :
    (dataRow.format = .hdr ∧ receiver.tick = [] ∧ receiver.preempt = none :: [none]) ∧
      xorAll (encode dataRow) = 0 ∧ typeOf (encode dataRow) ∈ receiver.params.knownTypes ∧
      typeOf (encode dataRow) ≠ receiver.params.tId ∧ typeOf (encode dataRow) ≠ receiver.params.tAck ∧
      versionOf (encode dataRow) ∈ receiver.params.knownVersions ∧ dstOf (encode dataRow) = receiver.cfgAddr.extractLsb' 0 4 ∧
      receiver.knowns = true :: [] ∧ xorAll (encode (.tPing ⟨1, false, false, 0, 1, 15, 0x3F, 0⟩ [])) = 0 ∧
      xorAll (encode (.tOta ⟨1, true, false, 0, 1, 3, 0x22, 0⟩ [])) = 0 := by decide
theorem witness_AckPacketRetiresEntry :
    let i := Instr.tAck ⟨1, false, false, 0, 1, 3, 0x37, 0⟩ [7]
    let e := Instr.tAck ⟨1, true, false, 0, 1, 3, 0x20, 0⟩ []
    (i.format = .hdr ∧ receiver.tick = [] ∧ receiver.preempt = none :: [none] ∧ xorAll (encode i) = 0 ∧
      typeOf (encode i) = receiver.params.tAck ∧ receiver.params.tAck ≠ receiver.params.tId ∧
      versionOf (encode i) ∈ receiver.params.knownVersions ∧ dstOf (encode i) = receiver.cfgAddr.extractLsb' 0 4 ∧
      receiver.knowns = true :: [] ∧ payloadOf (encode i) = 7 :: []) ∧
      xorAll (encode e) = 0 ∧ payloadOf (encode e) = [] := by decide
theorem witness_IdPacketGoesToRegistry :
    let i := Instr.tId ⟨1, false, false, 0, 15, 3, 0xD7, 0⟩ []
    i.format = .hdr ∧ receiver.tick = [] ∧ receiver.preempt = none :: [none] ∧ xorAll (encode i) = 0 ∧
      typeOf (encode i) = receiver.params.tId ∧ versionOf (encode i) ∈ receiver.params.knownVersions ∧
      dstOf (encode i) = receiver.cfgAddr.extractLsb' 0 4 ∧
      receiver.knowns = true :: [] ∧ { receiver with knowns := [false] }.knowns = false :: [] := by decide
theorem witness_AcknowledgementIsQueued :
    21 ≤ { Params.default with mtu := 21 }.mtu ∧ narrow.params.qDepth = some 2 ∧
      2 ≤ { narrow with tq := [fresh, fresh] }.tq.length ∧
      ∀ d ∈ narrow.params.qDepth, { narrow with tq := [fresh] }.tq.length < d := by decide

/-! ### Sending, reset, configuration, the whole machine -/

theorem witness_LsSendQueuesFragments :
    (narrow.preempt = none :: [none] ∧ ([1] : Buf) ≠ [] ∧ (15 : Byte).toNat ≤ 15 ∧ (4 : PType) ∈ narrow.params.knownTypes ∧
      ¬(true = true ∧ (2 : PType) ∉ narrow.params.exemptTypes ∧ narrow.params.qCap ≤ narrow.tq.length) ∧
      ∀ d ∈ narrow.params.qDepth, { narrow with tq := [fresh] }.tq.length +
        (([1] : Buf).length + narrow.params.maxPayload - 1) / narrow.params.maxPayload ≤ d) ∧
      { narrow with sends := [⟨[hi], 3, 1⟩] }.sends[0]? = some ⟨hi :: [], 3, 1⟩ ∧ 5 ≤ hi.length ∧
      hi.length ≤ narrow.params.mtu ∧ narrow.params.qDepth = some 2 ∧ 2 ≤ [fresh, fresh].length := by decide
theorem witness_LsSendRefusals :
    ([] : Buf) = [] ∧ ([1] : Buf) ≠ [] ∧ 15 < (16 : Byte).toNat ∧ (15 : Byte).toNat ≤ 15 ∧
      (5 : PType) ∉ narrow.params.knownTypes ∧ (2 : PType) ∈ narrow.params.knownTypes ∧
      ((2 : PType) ∉ narrow.params.exemptTypes ∧ narrow.params.qCap ≤ { narrow with tq := [fresh] }.tq.length) ∧
      ¬(false = true) ∧ narrow.params.qDepth = some 2 ∧
      2 < { narrow with tq := [fresh, fresh] }.tq.length +
        (([1] : Buf).length + narrow.params.maxPayload - 1) / narrow.params.maxPayload := by decide
theorem witness_LsResetClearsBlock : sending.tick = [] ∧ sending.sends = [] := by decide
theorem witness_StopsOnlyMidOperation :
    Instr.lsReset = .lsReset ∧ dataRow.format = .hdr ∧ (Instr.stInit 0).format = .state ∧
      (∃ n, Instr.lsTick 1 = .lsTick n) ∧ answersNext (exec .lsReset { host with sends := [⟨[], 0, 1⟩] }) = false ∧
      answersNext (exec dataRow { host with tick := [.finish] }) = false :=
  ⟨rfl, rfl, rfl, ⟨1, rfl⟩, rfl, rfl⟩
theorem witness_CfgWrResult :
    CfgReg.sf ≠ .flt ∧ (CfgReg.sf ≠ .addr ∧ ¬(sending.st = .init ∧ sending.tq = [])) ∧
      ¬(CfgReg.sf ≠ .addr ∧ ¬(host.st = .init ∧ host.tq = [])) ∧ 2 ^ CfgReg.width .sf ≤ 8 ∧
      ¬(2 ^ CfgReg.width .sf ≤ 7 ∨ CfgReg.sf = .sf ∧ (∀ h : 7 < 8, host.params.minListen[7] = none) ∨
        CfgReg.sf = .maxRetry ∧ 7 = 255) ∧
      (CfgReg.maxRetry ≠ .flt ∧ 255 = 255) ∧
      ¬(CfgReg.addr ≠ .addr ∧ ¬(sending.st = .init ∧ sending.tq = [])) := by decide

/-- A tick goes on whose remaining sub-steps touch no counter and no tracker. -/
def finishing : State := { host with tick := [.setSt .listening, .finish], turns := [.tick] }

theorem witness_CountersAndTrackersPrivate :
    ((∃ t, exec plain host = .next t) ∧ plain ≠ .lsReset ∧ (∀ n, plain ≠ .tqNext n) ∧ (∀ n, plain ≠ .stTransmitting n) ∧
      (∀ n, plain ≠ .lsTick n) ∧ (∀ a p, plain ≠ .rtAccept a p) ∧ plain.format ≠ .hdr ∧ ∀ n, plain ≠ .stListening n) ∧
      (∃ t, step finishing = .next t) ∧ (∀ i, ¬stepRuns i finishing) ∧ (nextTurn finishing).1 = .tick ∧
      (∀ n, .next n ∉ finishing.tick ∧ .handler n ∉ finishing.tick.tail) ∧ .poll ∉ finishing.tick ∧
      (∀ p, .route p ∉ finishing.tick ∧ .accept p ∉ finishing.tick) ∧ finishing.st ≠ .transmitting ∧
      finishing.st ≠ .listening :=
  ⟨⟨⟨_, rfl⟩, nofun, nofun, nofun, nofun, nofun, nofun, nofun⟩, ⟨_, rfl⟩, fun _ h => absurd h.1 (by decide), rfl,
    fun _ => ⟨by simp [finishing], by simp [finishing]⟩, by simp [finishing],
    fun _ => ⟨by simp [finishing], by simp [finishing]⟩, nofun, nofun⟩
theorem witness_SchedulerStatePrivate :
    ((∃ t, exec plain host = .next t) ∧ plain.format ≠ .hdr ∧ plain.format ≠ .state ∧ (∀ n, plain ≠ .lsTick n) ∧
      plain ≠ .lsReset) ∧
      (∃ t, step { host with sends := [⟨[hi], 3, 1⟩], turns := [.send 0] } = .next t) ∧
      (nextTurn { host with sends := [⟨[hi], 3, 1⟩], turns := [.send 0] }).1 = .send 0 :=
  ⟨⟨⟨_, rfl⟩, nofun, nofun, nofun, nofun⟩, ⟨_, rfl⟩, rfl⟩
theorem witness_FltStickyAndConfigPrivate :
    ((∃ t, exec plain { host with flt := 0x3F } = .next t) ∧ plain ≠ .lsReset ∧ ∀ r v, plain ≠ .cfgWr r v) ∧
      (∃ t, step finishing = .next t) ∧ ∀ i, ¬stepRuns i finishing :=
  ⟨⟨⟨_, rfl⟩, nofun, nofun⟩, ⟨_, rfl⟩, fun _ h => absurd h.1 (by decide)⟩
theorem witness_StepKeepsInvariant : waiting.Inv ∧ ∃ t, step waiting = .next t := ⟨by decide, _, rfl⟩

end Sys2Proof.Tests
end

section
/-! SUPPORT. The invariant of the block, clause by clause: what queue and tracker updates keep it. -/

namespace Sys2Proof.Machine

/-! ## The transmit queue -/

/-- `QueueSound` (R39 (a), (d), (f)) of a queue on its own, under the parameters of a block. -/
def QueueOk (p : Params) (q : List Entry) : Prop :=
  q.Pairwise (fun a b => b.prio.num ≤ a.prio.num) ∧ (∀ d ∈ p.qDepth, q.length ≤ d) ∧ ∀ e ∈ q, e.Sound p.mtu

/-- Entries may leave. -/
theorem QueueOk.sublist {p : Params} {q q' : List Entry} (h : QueueOk p q) (hq : q'.Sublist q) : QueueOk p q' := by
  obtain ⟨hord, hlen, hsound⟩ := h
  exact ⟨hord.sublist hq, fun d hd => hq.length_le.trans (hlen d hd), fun e he => hsound e (hq.subset he)⟩

/-- An entry may be removed from its place. -/
theorem QueueOk.remove {p : Params} {before after : List Entry} {e : Entry} (h : QueueOk p (before ++ e :: after)) :
    QueueOk p (before ++ after) :=
  h.sublist ((List.sublist_cons_self e after).append_left before)

/-- An entry may be rewritten in its place, with its priority kept. -/
theorem QueueOk.replace {p : Params} {before after : List Entry} {e e' : Entry} (h : QueueOk p (before ++ e :: after))
    (hprio : e'.prio = e.prio) (hsound : e'.Sound p.mtu) : QueueOk p (before ++ e' :: after) := by
  obtain ⟨hord, hlen, hall⟩ := h
  refine ⟨?_, by simpa using hlen, fun x hx => ?_⟩
  · simpa [List.pairwise_append, hprio] using hord
  · obtain hx | rfl | hx : x ∈ before ∨ x = e' ∨ x ∈ after := by simpa using hx
    · exact hall x (by simp [hx])
    · exact hsound
    · exact hall x (by simp [hx])

/-- Insertion by priority keeps the order (R192). -/
theorem insertEntry_pairwise (e : Entry) (q : List Entry) (h : q.Pairwise fun a b => b.prio.num ≤ a.prio.num) :
    (insertEntry e q).Pairwise fun a b => b.prio.num ≤ a.prio.num := by
  obtain ⟨before, after, rfl, hins, hafter, hbefore⟩ := insertEntry_spec e q
  obtain ⟨hb, ha, hba⟩ := List.pairwise_append.1 h
  have hlow : ∀ x ∈ after, x.prio.num ≤ e.prio.num := by
    cases after with
    | nil => simp
    | cons y ys =>
      have hy : y.prio.num < e.prio.num := hafter y rfl
      have hys := (List.pairwise_cons.1 ha).1
      simpa using ⟨hy.le, fun x hx => (hys x hx).trans hy.le⟩
  rw [hins, List.pairwise_append, List.pairwise_cons]
  refine ⟨hb, ⟨hlow, ha⟩, fun x hx y hy => ?_⟩
  obtain rfl | hy := List.mem_cons.1 hy
  · exact hbefore x hx
  · exact hba x hx y hy

/-- The queue after an insertion: the entry, and those there before. -/
theorem mem_insertEntry (e x : Entry) (q : List Entry) : x ∈ insertEntry e q ↔ x = e ∨ x ∈ q := by
  obtain ⟨before, after, rfl, hins, -, -⟩ := insertEntry_spec e q
  simp only [hins, List.mem_append, List.mem_cons]
  tauto

theorem length_insertEntry (e : Entry) (q : List Entry) : (insertEntry e q).length = q.length + 1 := by
  obtain ⟨before, after, rfl, hins, -, -⟩ := insertEntry_spec e q
  simp [hins, Nat.add_assoc]

/-- A sound entry may be inserted where the depth allows one more. -/
theorem QueueOk.insert {p : Params} {q : List Entry} {e : Entry} (h : QueueOk p q) (hsound : e.Sound p.mtu)
    (hroom : ∀ d ∈ p.qDepth, q.length + 1 ≤ d) : QueueOk p (insertEntry e q) := by
  obtain ⟨hord, -, hall⟩ := h
  refine ⟨insertEntry_pairwise e q hord, by simpa [length_insertEntry] using hroom, fun x hx => ?_⟩
  obtain rfl | hx := (mem_insertEntry e x q).1 hx
  · exact hsound
  · exact hall x hx

/-- A new entry of 5 to `MTU` bytes is sound under a legal retry budget (R192). -/
theorem newEntry_sound (p : Buf) (dest : Addr) (prio : Prio) (s : State) (hmin : 5 ≤ p.length)
    (hmax : p.length ≤ s.params.mtu) (hretry : s.cfgMaxRetry.toNat ≤ 254) :
    (newEntry p dest prio s).Sound s.params.mtu :=
  ⟨hmin, hmax, fun _ => rfl, by simp [newEntry], nofun, hretry⟩

/-- First dispatch seals the packet and keeps its length (R196). -/
theorem Entry.Sound.stamped {mtu : Nat} {e : Entry} (h : e.Sound mtu) (n : Byte) :
    Entry.Sound mtu { e with pkt := stamp e.pkt n, seqAssigned := true } := by
  obtain ⟨hmin, hmax, -, hcount, -, hretry⟩ := h
  exact ⟨by simpa using hmin, by simpa using hmax, nofun, hcount, fun _ => xorAll_stamp _ _ hmin, hretry⟩

/-- A mark of a dispatched entry keeps the count's bound (R39 (d)). -/
theorem Entry.Sound.marked {mtu : Nat} {e : Entry} (h : e.Sound mtu) (hseq : e.seqAssigned = true) (now : Ticks) :
    Entry.Sound mtu { e with sentCount := bumpCount e, lastSent := now } := by
  obtain ⟨hmin, hmax, -, -, hseal, hretry⟩ := h
  exact ⟨hmin, hmax, fun hn => by simp [hseq] at hn, (bumpCount_spec e).1, hseal, hretry⟩

/-! ## The receive trackers -/

/-- The bound of R40 on every tracker's fragment buffer. -/
def FragsOk (p : Params) (rt : Vector Tracker 16) : Prop :=
  ∀ m ∈ p.fragMax, ∀ t ∈ rt.toList, t.frags.length ≤ m

/-- A tracker may be written when its buffer is within the bound. -/
theorem FragsOk.set {p : Params} {rt : Vector Tracker 16} (h : FragsOk p rt) (a : Addr) (t : Tracker)
    (ht : ∀ m ∈ p.fragMax, t.frags.length ≤ m) : FragsOk p (rt.set a.toNat t a.isLt) := by
  intro m hm u hu
  rw [Vector.toList_set] at hu
  obtain hu | rfl := List.mem_or_eq_of_mem_set hu
  · exact h m hm u hu
  · exact ht m hm

/-- A fragment buffer that is not full takes one more (R234). -/
theorem room_of_not_fragsFull {s : State} {t : Tracker} (h : fragsFull s t = false) :
    ∀ m ∈ s.params.fragMax, t.frags.length + 1 ≤ m := by
  intro m hm
  by_contra hlt
  have : fragsFull s t = true := (fragsFull_iff s t).2 ⟨m, hm, by omega⟩
  simp [h] at this

/-- A queue that is not at its depth takes one more (R192). -/
theorem room_of_not_exceedsDepth {s : State} {n : Nat} (h : exceedsDepth s n = false) : ∀ d ∈ s.params.qDepth, n ≤ d := by
  intro d hd
  by_contra hlt
  have : exceedsDepth s n = true := (exceedsDepth_iff s n).2 ⟨d, hd, by omega⟩
  simp [h] at this

/-! ## The fault register -/

/-- No error has a bit in the reserved positions of `FLT` (R35). -/
theorem fltMask_reserved (c : Code) : fltMask c &&& 0xC0 = 0 := by cases c <;> rfl

/-- Setting bits that are not reserved keeps the reserved ones 0. -/
theorem reserved_or {f m : Byte} (hf : f &&& 0xC0 = 0) (hm : m &&& 0xC0 = 0) : (f ||| m) &&& 0xC0 = 0 := by
  have hdist : (f ||| m) &&& 0xC0 = (f &&& 0xC0) ||| (m &&& 0xC0) := by ext i; simp [Bool.and_or_distrib_right]
  rw [hdist, hf, hm, BitVec.or_self]

/-- Setting bits clears none (R35). -/
theorem or_and_self (f m : Byte) : (f ||| m) &&& f = f := by
  ext i
  simp only [BitVec.getElem_and, BitVec.getElem_or]
  cases f[i] <;> simp

/-! ## The whole invariant -/

/-- The invariant, by its clauses on the queue and on the trackers. -/
theorem inv_iff (s : State) : s.Inv ↔
    QueueOk s.params s.tq ∧ FragsOk s.params s.rt ∧ s.flt &&& 0xC0 = 0 ∧ s.cfgMaxRetry.toNat ≤ 254 ∧ s.lock = .free :=
  Iff.rfl

/-- The block after power-on reset, with a legal reset value of `CFG_MAXRETRY`. -/
theorem init_inv (p : Params) (h : p.resetMaxRetry.toNat ≤ 254) : (State.init p).Inv := by
  refine ⟨⟨List.Pairwise.nil, fun _ _ => Nat.zero_le _, nofun⟩, fun m _ t ht => ?_, BitVec.zero_and, h, rfl⟩
  have : t = Tracker.empty := by simpa [State.init] using ht
  simp [this, Tracker.empty]

end Sys2Proof.Machine
end


section
/-! SUPPORT. What an operation writes: one relation that says of two states that the second meets the invariant when the first
does, that the parameters stay, and that the parts of the block outside a given set are as they were; one lemma per shared
operation. -/

namespace Sys2Proof.Machine

/-- The parts of the block whose writers the rules restrict (R31 to R35, R37, R40). -/
inductive Part
  | scheduler
  | counters
  | trackers
  | faults
  | config
  deriving DecidableEq

/-- `ST`, the time registers, the flags and the tick in progress (R32, R33, R34). -/
def State.scheduler (s : State) : SchedState × Ticks × Ticks × Ticks × Ticks × Bool × Bool × Bool × List Micro :=
  (s.st, s.tListen, s.jit, s.tRx, s.tTx, s.fListen, s.fForce, s.fTxSeen, s.tick)

/-- The configuration registers 0 to 6 (R37). -/
def State.config (s : State) : Byte × BitVec 3 × Bool × BitVec 256 × Ticks × Byte × Bool :=
  (s.cfgAddr, s.cfgSf, s.cfgKeyEn, s.cfgKey, s.cfgTimeout, s.cfgMaxRetry, s.cfgPromisc)

/-- From `s` to `t` the invariant is kept and only the parts in `w` are written; of the others `FLT` may gain bits. The defaults
prove the fields of a part that an update does not mention. -/
structure Effect (w : Finset Part) (s t : State) : Prop where
  inv : s.Inv → t.Inv
  params : t.params = s.params := by rfl
  scheduler : .scheduler ∉ w → t.scheduler = s.scheduler := by intro _; rfl
  counters : .counters ∉ w → t.seq = s.seq := by intro _; rfl
  trackers : .trackers ∉ w → t.rt = s.rt := by intro _; rfl
  faults : .faults ∉ w → t.flt &&& s.flt = s.flt := by intro _; exact BitVec.and_self
  config : .config ∉ w → t.config = s.config := by intro _; rfl

namespace Effect

variable {w : Finset Part} {s t u : State}

theorem refl (w : Finset Part) (s : State) : Effect w s s where
  inv := id

theorem trans (h : Effect w s t) (h' : Effect w t u) : Effect w s u where
  inv := h'.inv ∘ h.inv
  params := h'.params.trans h.params
  scheduler := fun hn => (h'.scheduler hn).trans (h.scheduler hn)
  counters := fun hn => (h'.counters hn).trans (h.counters hn)
  trackers := fun hn => (h'.trackers hn).trans (h.trackers hn)
  faults := fun hn => by rw [← h.faults hn, ← BitVec.and_assoc, h'.faults hn]
  config := fun hn => (h'.config hn).trans (h.config hn)

/-- More parts may be written than are. -/
theorem mono {w' : Finset Part} (h : Effect w s t) (hw : w ⊆ w') : Effect w' s t where
  inv := h.inv
  params := h.params
  scheduler := fun hn => h.scheduler fun hm => hn (hw hm)
  counters := fun hn => h.counters fun hm => hn (hw hm)
  trackers := fun hn => h.trackers fun hm => hn (hw hm)
  faults := fun hn => h.faults fun hm => hn (hw hm)
  config := fun hn => h.config fun hm => hn (hw hm)

/-- Without the scheduler's part `ST` is as it was. -/
theorem st_eq (h : Effect w s t) (hw : .scheduler ∉ w) : t.st = s.st := congrArg Prod.fst (h.scheduler hw)

/-- Without the scheduler's part the tick in progress is as it was. -/
theorem tick_eq (h : Effect w s t) (hw : .scheduler ∉ w) : t.tick = s.tick :=
  congrArg (fun v => v.2.2.2.2.2.2.2.2) (h.scheduler hw)

end Effect

/-! ## Outputs, asks, choices and the port: none is a restricted part -/

section Io

variable (w : Finset Part) (s : State)

theorem emit_effect (o : Out) : Effect w s (emit o s) where
  inv := id

theorem logRec_effect (c : Code) (info : List Nat) : Effect w s (logRec c info s) := emit_effect w s _

theorem finish_effect (op : Byte) (c : Code) (d : Data) : Effect w s (finish op c d s) := emit_effect w s _

/-- Raising an error sets bits of `FLT` that are not reserved, and clears none (R35, R326). -/
theorem raise_effect (c : Code) (info : List Nat) : Effect w s (raise c info s) where
  inv := fun ⟨hqueue, hfrags, hflt, hretry, hlock⟩ =>
    ⟨hqueue, hfrags, reserved_or hflt (fltMask_reserved c), hretry, hlock⟩
  faults := fun _ => or_and_self _ _

theorem release_effect : Effect w s (release s) where
  inv := fun ⟨hqueue, hfrags, hflt, hretry, _⟩ => ⟨hqueue, hfrags, hflt, hretry, rfl⟩

theorem askPoll_effect : Effect w s (askPoll s).2 := by
  obtain ⟨a, r, -, h⟩ | ⟨-, h⟩ := askPoll_cases s <;> rw [h] <;> exact { inv := id }

theorem askTransmit_effect (b : Buf) : Effect w s (askTransmit b s).2 := by
  obtain ⟨a, r, -, h⟩ | ⟨-, h⟩ := askTransmit_cases b s <;> rw [h] <;> exact { inv := id }

theorem askInitialize_effect : Effect w s (askInitialize s).2 := by
  obtain ⟨a, r, -, h⟩ | ⟨-, h⟩ := askInitialize_cases s <;> rw [h] <;> exact { inv := id }

theorem askObserve_effect (p : Buf) (q : Int) : Effect w s (askObserve p q s).2 := by
  obtain ⟨a, r, -, h⟩ | ⟨-, h⟩ := askObserve_cases p q s <;> rw [h] <;> exact { inv := id }

theorem takeCut_effect : Effect w s (takeCut s).2 := by
  obtain ⟨c, r, -, h⟩ | ⟨-, h⟩ := takeCut_cases s <;> rw [h] <;> exact { inv := id }

theorem rawDraw_effect : Effect w s (rawDraw s).2 := by
  unfold rawDraw
  split <;> exact { inv := id }

theorem nextTurn_effect : Effect w s (nextTurn s).2 := by
  unfold nextTurn
  split
  · exact .refl w s
  · split <;> exact { inv := id }

theorem fetched_effect (f : Frame) (rest : List Frame) : Effect w s (fetched f rest s) where
  inv := id

end Io

/-! ## The transmit queue (R190 to R199) -/

section Queue

variable (w : Finset Part) (s : State)

/-- A sound queue may be written. -/
theorem writeQueue_effect (q : List Entry) (hq : s.Inv → QueueOk s.params q) : Effect w s { s with tq := q } where
  inv := fun h => by
    obtain ⟨-, hfrags, hflt, hretry, hlock⟩ := id h
    exact ⟨hq h, hfrags, hflt, hretry, hlock⟩

/-- An atomic operation that leaves a sound queue. -/
theorem setQueue_effect (q : List Entry) (hq : s.Inv → QueueOk s.params q) :
    Effect w s { s with tq := q, lock := .free } :=
  (writeQueue_effect w s q hq).trans (release_effect w _)

/-- The queue of a state that meets the invariant, where it is known to consist of given entries. -/
theorem State.Inv.queueOk {s : State} (h : s.Inv) {q : List Entry} (hq : s.tq = q) : QueueOk s.params q :=
  hq ▸ ((inv_iff s).1 h).1

theorem enqueue_effect (p : Buf) (dest : Addr) (prio : Prio) (droppable : Bool) :
    Effect w s (enqueue p dest prio droppable s).2 := by
  obtain ⟨-, h⟩ | ⟨-, -, h⟩ | ⟨-, -, -, -, -, h⟩ | ⟨-, -, -, -, h⟩ | ⟨hmax, hmin, -, hroom, h⟩ :=
    enqueue_cases p dest prio droppable s <;> rw [h]
  · exact release_effect w s
  · exact release_effect w s
  · exact release_effect w s
  · exact (raise_effect w s _ _).trans (release_effect w _)
  · have hfree : Effect w s { s with free := s.free + 1 } := { inv := id }
    refine hfree.trans (setQueue_effect w { s with free := s.free + 1 } _ fun hinv => ?_)
    obtain ⟨hqueue, -, -, hretry, -⟩ := hinv
    exact QueueOk.insert hqueue (newEntry_sound p dest prio s hmin hmax hretry) (room_of_not_exceedsDepth hroom)

theorem sendRoom_effect (type : PType) (allowDrop : Bool) (k : Nat) : Effect w s (sendRoom type allowDrop k s).2 := by
  obtain ⟨-, h⟩ | ⟨-, -, h⟩ | ⟨-, -, h⟩ := sendRoom_cases type allowDrop k s <;> rw [h]
  · exact release_effect w s
  · exact (raise_effect w s _ _).trans (release_effect w _)
  · exact release_effect w s

theorem peek_effect (now : Ticks) : Effect w s (peek now s).2 := release_effect w s

/-- A counter changes only by a first dispatch (R31, R196). -/
theorem nextSendable_effect (now : Ticks) (hw : .counters ∈ w) : Effect w s (nextSendable now s).2 := by
  obtain ⟨-, h⟩ | ⟨before, e, after, hq, -, -, ⟨-, h⟩ | ⟨-, h⟩⟩ := nextSendable_cases now s <;> rw [h]
  · exact release_effect w s
  · exact release_effect w s
  · have hseq : Effect w s (setSeq e.dest (seqAt s e.dest + 1) s) :=
      { inv := id, counters := fun hn => absurd hw hn }
    refine hseq.trans (setQueue_effect w _ _ fun hinv => ?_)
    have hok : QueueOk s.params (before ++ e :: after) := hinv.queueOk hq
    exact hok.replace rfl ((hok.2.2 e (by simp)).stamped _)

theorem markSent_effect (p : Buf) (now : Ticks) : Effect w s (markSent p now s).2 := by
  obtain ⟨-, h⟩ | ⟨before, e, after, hq, hd, -, ⟨-, h⟩ | ⟨-, h⟩⟩ := markSent_cases p now s <;> rw [h]
  · exact (raise_effect w s _ _).trans (release_effect w _)
  · exact setQueue_effect w s _ fun hinv => (hinv.queueOk hq).remove
  · refine setQueue_effect w s _ fun hinv => ?_
    have hok := hinv.queueOk hq
    have hseq : e.seqAssigned = true := (Bool.and_eq_true_iff.1 hd).1
    exact hok.replace rfl ((hok.2.2 e (by simp)).marked hseq now)

theorem removeByKey_effect (dest : Addr) (seq : Byte) : Effect w s (removeByKey dest seq s).2 := by
  obtain ⟨-, h⟩ | ⟨before, e, after, hq, -, -, h⟩ := removeByKey_cases dest seq s <;> rw [h]
  · exact (raise_effect w s _ _).trans (release_effect w _)
  · exact setQueue_effect w s _ fun hinv => (hinv.queueOk hq).remove

theorem dropUnsent_effect (p : Buf) : Effect w s (dropUnsent p s).2 := by
  obtain ⟨-, h⟩ | ⟨before, e, after, hq, -, -, h⟩ := dropUnsent_cases p s <;> rw [h]
  · exact release_effect w s
  · exact setQueue_effect w s _ fun hinv => (hinv.queueOk hq).remove

theorem raiseDrops_effect (es : List Entry) : Effect w s (raiseDrops es s) := by
  induction es generalizing s with
  | nil => exact .refl w s
  | cons e es ih => exact (raise_effect w s _ _).trans (ih _)

theorem cleanUp_effect (now : Ticks) : Effect w s (cleanUp now s).2 := by
  have hkeep : Effect w s { s with tq := s.tq.filter fun e => !expired e now } :=
    writeQueue_effect w s _ fun hinv => (hinv.queueOk rfl).sublist List.filter_sublist
  exact hkeep.trans ((raiseDrops_effect w _ _).trans (release_effect w _))

end Queue

/-! ## The receive trackers (R231 to R238), the configuration and reset (R281, R282) -/

section TrackersAndConfig

variable (w : Finset Part) (s : State)

/-- A tracker may be written with a fragment buffer within its bound. -/
theorem setTracker_effect (a : Addr) (t : Tracker) (hw : .trackers ∈ w)
    (ht : s.Inv → ∀ m ∈ s.params.fragMax, t.frags.length ≤ m) : Effect w s (setTracker a t s) where
  inv := fun h => by
    obtain ⟨hqueue, hfrags, hflt, hretry, hlock⟩ := id h
    exact ⟨hqueue, FragsOk.set hfrags a t (ht h), hflt, hretry, hlock⟩
  trackers := fun hn => absurd hw hn

/-- The records a tracker operation leaves behind what it wrote. -/
theorem loggedAtomic_effect (o : List Out) : Effect w s { s with out := o, lock := .free } :=
  Effect.trans (t := { s with out := o }) { inv := id } (release_effect w _)

/-- A tracker changes only by `RT.ACCEPT` (R40). -/
theorem acceptPkt_effect (a : Addr) (p : Buf) (hw : .trackers ∈ w) : Effect w s (acceptPkt a p s).2 := by
  have hclear : Effect w s (setTracker a ⟨true, p, []⟩ s) :=
    setTracker_effect w s a _ hw fun _ _ _ => Nat.zero_le _
  obtain ⟨-, -, h⟩ | ⟨-, ⟨-, -, h⟩ | ⟨-, hroom, h⟩ | ⟨-, -, h⟩ | ⟨f, fs, -, -, h⟩⟩ := acceptPkt_cases a p s <;> rw [h]
  · exact (raise_effect w s _ _).trans (release_effect w _)
  · have hlogged := hclear.trans (loggedAtomic_effect w _ (s.out ++ missingLogs (trackerAt s a) p))
    exact hlogged.trans (raise_effect w _ .eFragOvf [(srcOf p).toNat])
  · have hstored : Effect w s (setTracker a ⟨true, p, (trackerAt s a).frags ++ [p]⟩ s) :=
      setTracker_effect w s a _ hw fun _ => by simpa using room_of_not_fragsFull hroom
    exact hstored.trans (loggedAtomic_effect w _ _)
  · exact hclear.trans (loggedAtomic_effect w _ _)
  · exact hclear.trans (loggedAtomic_effect w _ _)

/-- A legal value keeps `CFG_MAXRETRY` legal (R37). -/
theorem cfgLegal_maxRetry {s : State} {v : Nat} (h : cfgLegal s .maxRetry v = true) : v ≤ 254 := by
  simpa [cfgLegal] using (Bool.and_eq_true_iff.1 h).2

theorem writeReg_effect (r : CfgReg) (v : Nat) (hw : .config ∈ w) (hv : cfgLegal s r v = true) :
    Effect w s (writeReg r v s) := by
  cases r with
  | maxRetry =>
    have hle := cfgLegal_maxRetry hv
    exact
      { inv := fun ⟨hqueue, hfrags, hflt, _, hlock⟩ =>
          ⟨hqueue, hfrags, hflt, by simpa [writeReg] using by omega, hlock⟩
        config := fun hn => absurd hw hn }
  | flt => exact .refl w s
  | addr | sf | keyEn | key | timeout | promisc => exact { inv := id, config := fun hn => absurd hw hn }

theorem cfgWrite_effect (r : CfgReg) (v : Nat) (hw : .config ∈ w) : Effect w s (cfgWrite r v s).2 := by
  obtain ⟨-, h⟩ | ⟨-, -, -, h⟩ | ⟨-, -, -, h⟩ | ⟨-, -, hlegal, h⟩ := cfgWrite_cases r v s <;> rw [h]
  · exact release_effect w s
  · exact release_effect w s
  · exact release_effect w s
  · exact (writeReg_effect w s r v hw hlegal).trans (release_effect w _)

/-- Reset writes everything but the configuration, which it leaves (R281). -/
theorem resetBlock_effect :
    Effect {.scheduler, .counters, .trackers, .faults} s (resetBlock s) where
  inv := fun ⟨_, _, _, hretry, _⟩ => by
    obtain ⟨hqueue, hfrags, hflt, -, hlock⟩ := init_inv { s.params with resetMaxRetry := 0 } (Nat.zero_le _)
    exact ⟨hqueue, hfrags, hflt, hretry, hlock⟩
  scheduler := fun hn => absurd (by decide) hn
  counters := fun hn => absurd (by decide) hn
  trackers := fun hn => absurd (by decide) hn
  faults := fun hn => absurd (by decide) hn

end TrackersAndConfig

end Sys2Proof.Machine
end


section
/-! SUPPORT. What the sub-steps of a tick, whole ticks, sends, operations and steps write. -/

namespace Sys2Proof.Machine

/-! ## Which parts each piece may write -/

/-- The parts the handler of a state and its sub-steps may write (R262 to R275): a dispatch is the `TRANSMITTING` handler's, an
accept the `LISTENING` handler's. -/
def handlerParts : SchedState → Finset Part
  | .listening => {.scheduler, .trackers}
  | .transmitting => {.scheduler, .counters}
  | .init | .enterListen | .enterTransmit => {.scheduler}

/-- The parts a sub-step and those that follow from it may write, when it starts with `ST` at `st`. -/
@[simp] def Micro.partsAt (st : SchedState) : Micro → Finset Part
  | .handler _ => handlerParts st
  | .poll | .route _ | .accept _ => {.scheduler, .trackers}
  | .next _ => {.scheduler, .counters}
  | .clean _ | .ackp _ | .ack _ | .leave _ | .peek _ | .stopListen | .dropEntry _ | .transmit .. | .reinit | .mark ..
  | .setSt _ | .finish => {.scheduler}

/-- The parts a sub-step and those that follow from it may write, whatever `ST` is when it starts. -/
@[simp] def Micro.parts : Micro → Finset Part
  | .handler _ => {.scheduler, .counters, .trackers}
  | m => m.partsAt .init

/-- The parts an operation may write, when it starts with `ST` at `st`. -/
@[simp] def instrParts (st : SchedState) : Instr → Finset Part
  | .tqNext _ => {.counters}
  | .rtAccept .. => {.trackers}
  | .lsTick _ => handlerParts st
  | .lsReset => {.scheduler, .counters, .trackers, .faults}
  | .cfgWr .. => {.config}
  | .tPing .. | .tOta .. | .tData .. | .tAck .. | .tId .. | .hdrReserved5 .. | .hdrReserved6 .. | .hdrReserved7 .. =>
    {.scheduler, .trackers}
  | .stInit _ => handlerParts .init
  | .stListening _ => handlerParts .listening
  | .stTransmitting _ => handlerParts .transmitting
  | .stEnterListen _ => handlerParts .enterListen
  | .stEnterTransmit _ => handlerParts .enterTransmit
  | .pktEncode .. | .pktCsum .. | .pktCheck .. | .pktToWire .. | .pktFromWire .. | .pktFrag .. | .tqEnq .. | .tqPeek ..
  | .tqMark .. | .tqRmkey .. | .tqClean .. | .lsSend .. | .cfgRd .. | .ackp .. | .prioLow .. | .prioHigh ..
  | .prioHighest .. => ∅

@[simp] theorem scheduler_mem_handlerParts (st : SchedState) : .scheduler ∈ handlerParts st := by cases st <;> decide

@[simp] theorem counters_mem_handlerParts (st : SchedState) : .counters ∈ handlerParts st ↔ st = .transmitting := by
  cases st <;> decide

@[simp] theorem trackers_mem_handlerParts (st : SchedState) : .trackers ∈ handlerParts st ↔ st = .listening := by
  cases st <;> decide

@[simp] theorem faults_notMem_handlerParts (st : SchedState) : .faults ∉ handlerParts st := by cases st <;> decide

@[simp] theorem config_notMem_handlerParts (st : SchedState) : .config ∉ handlerParts st := by cases st <;> decide

/-! ## Sub-steps -/

/-- A sub-step that starts in `s` and answers `r` stays within the parts `w`, and so do those that follow from it. -/
def Within (w : Finset Part) (s : State) (r : State × List Micro) : Prop := Effect w s r.1 ∧ ∀ m ∈ r.2, m.parts ⊆ w

section SubSteps

variable (w : Finset Part) (s : State)

theorem enterListen_within (now : Ticks) : Within {.scheduler} s (enterListen now s) := by
  have hlisten : Effect {.scheduler} s
      (if s.fListen then s else { emit .radioEnterPassiveListen s with fListen := true }) := by
    split
    · exact .refl _ s
    · exact { inv := id, scheduler := fun hn => absurd (by decide) hn }
  refine ⟨(hlisten.trans (rawDraw_effect _ _)).trans ?_, by simp [enterListen]⟩
  exact { inv := id, scheduler := fun hn => absurd (by decide) hn }

theorem enterTransmit_within (now : Ticks) : Within {.scheduler} s (enterTransmit now s) := by
  unfold enterTransmit
  split <;> exact ⟨.refl _ s, by simp⟩

/-- The first part of a handler (R261). -/
theorem handlerOf_within (st : SchedState) (now : Ticks) : Within (handlerParts st) s (handlerOf st now s) := by
  cases st with
  | init => exact ⟨.refl _ s, by simp [handlerOf, handlerParts]⟩
  | listening =>
    refine ⟨{ inv := id, scheduler := fun hn => absurd (by decide) hn }, ?_⟩
    simp [handlerOf, handlerParts]
  | transmitting => exact ⟨.refl _ s, by simp [handlerOf, handlerParts]⟩
  | enterListen => exact enterListen_within s now
  | enterTransmit => exact enterTransmit_within s now

/-- A poll leads at most to a routing (R265). -/
theorem pollRadio_within : Within {.scheduler, .trackers} s (pollRadio s) := by
  have hask := askPoll_effect {.scheduler, .trackers} s
  unfold pollRadio
  dsimp only
  split
  · split
    · exact ⟨hask.trans { inv := id }, by simp⟩
    · exact ⟨hask.trans { inv := id }, by simp⟩
  · exact ⟨hask.trans (emit_effect _ _ _), by simp⟩
  · exact ⟨(hask.trans (raise_effect _ _ _ _)).trans (emit_effect _ _ _), by simp⟩
  · exact ⟨hask, by simp⟩

theorem ackSteps_parts (p : Buf) : ∀ m ∈ ackSteps p, m.parts ⊆ {.scheduler} := by
  unfold ackSteps
  split <;> simp

/-- Routing by type leads to an accept at most (R269). -/
theorem routeByType_within (known : Bool) (p : Buf) : Within {.scheduler, .trackers} s (routeByType known p s) := by
  have hack : ∀ m ∈ ackSteps p, m.parts ⊆ {.scheduler, .trackers} := fun m hm =>
    (ackSteps_parts p m hm).trans (by decide)
  unfold routeByType
  split
  · exact ⟨emit_effect _ s _, hack⟩
  · split
    · exact ⟨(raise_effect _ s _ _).trans (emit_effect _ _ _), by simp⟩
    · split
      · split
        · exact ⟨raise_effect _ s _ _, hack⟩
        · exact ⟨{ inv := id }, List.forall_mem_cons.2 ⟨by simp, hack⟩⟩
      · exact ⟨.refl _ s, List.forall_mem_cons.2 ⟨by simp, hack⟩⟩

theorem routePkt_within (p : Buf) : Within {.scheduler, .trackers} s (routePkt p s) := by
  unfold routePkt
  split
  · exact ⟨logRec_effect _ s _ _, by simp⟩
  · split
    · obtain ⟨heffect, hparts⟩ := routeByType_within (askObserve p s.rx.quality s).2 (askObserve p s.rx.quality s).1 p
      exact ⟨(askObserve_effect _ s _ _).trans heffect, hparts⟩
    · exact ⟨raise_effect _ s _ _, by simp⟩

theorem deliverPkt_effect (p : Buf) (hw : .trackers ∈ w) : Effect w s (deliverPkt p s) := by
  have haccept := acceptPkt_effect w s (srcOf p) p hw
  unfold deliverPkt
  dsimp only
  split
  · exact haccept.trans (emit_effect _ _ _)
  · exact haccept

theorem enqueueAck_effect (p : Buf) (hw : .scheduler ∈ w) : Effect w s (enqueueAck p s) := by
  have henq := enqueue_effect w s
    (pktOrEmpty (encodePkt s [seqOf p] s.params.tAck false false (localAddr s) (srcOf p))) (srcOf p) .highest false
  unfold enqueueAck
  dsimp only
  split
  · exact henq.trans { inv := id, scheduler := fun hn => absurd hw hn }
  · exact henq

theorem leaveListening_effect (now : Ticks) (hw : .scheduler ∈ w) : Effect w s (leaveListening now s) := by
  rw [leaveListening_eq]
  exact { inv := id, scheduler := fun hn => absurd hw hn }

theorem peekAndDecide_within (now : Ticks) : Within {.scheduler} s (peekAndDecide now s) := by
  unfold peekAndDecide
  dsimp only
  split
  · exact ⟨peek_effect _ s now, by simp⟩
  · split <;> exact ⟨peek_effect _ s now, by simp⟩

theorem stopListening_effect (hw : .scheduler ∈ w) : Effect w s (stopListening s) := by
  unfold stopListening
  split
  · exact { inv := id, scheduler := fun hn => absurd hw hn }
  · exact .refl w s

/-- What follows a dispatch dispatches nothing more (R275). -/
theorem nextToSend_within (now : Ticks) : Within {.scheduler, .counters} s (nextToSend now s) := by
  have hnext := nextSendable_effect {.scheduler, .counters} s now (by decide)
  unfold nextToSend
  dsimp only
  split
  · exact ⟨hnext.trans (raise_effect _ _ _ _), by simp⟩
  · split
    · exact ⟨hnext, by simp⟩
    · exact ⟨hnext.trans (raise_effect _ _ _ _), by simp⟩

theorem transmitPkt_within (p b : Buf) (now : Ticks) : Within {.scheduler} s (transmitPkt p b now s) := by
  have hask : Effect {.scheduler} s { (askTransmit b s).2 with tTx := now, fTxSeen := true } :=
    (askTransmit_effect _ s b).trans { inv := id, scheduler := fun hn => absurd (by decide) hn }
  unfold transmitPkt
  dsimp only
  split
  · exact ⟨hask, by simp⟩
  · exact ⟨hask.trans (raise_effect _ _ _ _), by simp⟩

theorem reinitRadio_effect : Effect w s (reinitRadio s) := by
  have hask := askInitialize_effect w s
  unfold reinitRadio
  dsimp only
  split
  · exact hask
  · exact hask.trans (raise_effect _ _ _ _)

/-- Every sub-step stays within its parts. -/
theorem microStep_within (m : Micro) : Within (m.partsAt s.st) s (microStep m s) := by
  have hnone : ∀ w : Finset Part, ∀ m ∈ ([] : List Micro), m.parts ⊆ w := fun _ _ hm => absurd hm List.not_mem_nil
  cases m with
  | clean now => exact ⟨cleanUp_effect _ s now, hnone _⟩
  | handler now => exact handlerOf_within s s.st now
  | poll => exact pollRadio_within s
  | route p => exact routePkt_within s p
  | ackp acked => exact ⟨removeByKey_effect _ s _ acked, hnone _⟩
  | accept p => exact ⟨deliverPkt_effect _ s p (by simp), hnone _⟩
  | ack p => exact ⟨enqueueAck_effect _ s p (by simp), hnone _⟩
  | leave now => exact ⟨leaveListening_effect _ s now (by simp), hnone _⟩
  | peek now => exact peekAndDecide_within s now
  | stopListen => exact ⟨stopListening_effect _ s (by simp), hnone _⟩
  | next now => exact nextToSend_within s now
  | dropEntry p => exact ⟨dropUnsent_effect _ s p, hnone _⟩
  | transmit p b now => exact transmitPkt_within s p b now
  | reinit => exact ⟨reinitRadio_effect _ s, hnone _⟩
  | mark p now => exact ⟨markSent_effect _ s p now, hnone _⟩
  | setSt st => exact ⟨{ inv := id, scheduler := fun hn => absurd (by simp) hn }, hnone _⟩
  | finish => exact ⟨finish_effect _ s _ _ _, hnone _⟩

/-! ## Runs of sub-steps -/

/-- Whatever `ST` is, a sub-step's parts are among those it may have in some state. -/
theorem Micro.partsAt_subset (m : Micro) (st : SchedState) : m.partsAt st ⊆ m.parts := by
  cases m with
  | handler now => cases st <;> simp [handlerParts]
  | _ => exact subset_rfl

/-- Sub-steps still to make, the first of them with `ST` at `st`, stay within the parts `w`. -/
def TickWithin (w : Finset Part) (st : SchedState) (ms : List Micro) : Prop :=
  (∀ m ∈ ms.head?, m.partsAt st ⊆ w) ∧ ∀ m ∈ ms.tail, m.parts ⊆ w

theorem tickWithin_of_parts {w : Finset Part} {ms : List Micro} (h : ∀ m ∈ ms, m.parts ⊆ w) (st : SchedState) :
    TickWithin w st ms :=
  ⟨fun m hm => (m.partsAt_subset st).trans (h m (List.mem_of_mem_head? hm)), fun m hm => h m (List.mem_of_mem_tail hm)⟩

/-- The scheduler notes what is left of a tick. -/
theorem setTick_effect (ms : List Micro) (hw : .scheduler ∈ w) : Effect w s { s with tick := ms } where
  inv := id
  scheduler := fun hn => absurd hw hn

/-- A run of sub-steps stays within their parts. -/
theorem drive_effect (hw : .scheduler ∈ w) (n : Nat) (ms : List Micro) (hms : TickWithin w s.st ms) :
    Effect w s (drive n ms s) := by
  induction n generalizing ms s with
  | zero => cases ms <;> exact setTick_effect w s _ hw
  | succ n ih =>
    cases ms with
    | nil => exact setTick_effect w s _ hw
    | cons m ms =>
      obtain ⟨hhead, htail⟩ := hms
      have hm : m.partsAt s.st ⊆ w := hhead m rfl
      obtain ⟨heffect, hnew⟩ := microStep_within s m
      refine (heffect.mono hm).trans (ih _ _ (tickWithin_of_parts (fun m' hm' => ?_) _))
      obtain hm' | hm' := List.mem_append.1 hm'
      · exact (hnew m' hm').trans hm
      · exact htail m' hm'

theorem runTick_effect (hw : .scheduler ∈ w) (ms : List Micro) (hms : TickWithin w s.st ms) :
    Effect w s (runTick ms s) := by
  have hst : (takeCut s).2.st = s.st := (takeCut_effect ∅ s).st_eq (by simp)
  exact (takeCut_effect w s).trans (drive_effect w _ hw _ ms (hst ▸ hms))

theorem resumeTick_effect (hw : .scheduler ∈ w) (hms : TickWithin w s.st s.tick) : Effect w s (resumeTick s) :=
  (setTick_effect w s [] hw).trans (runTick_effect w { s with tick := [] } hw s.tick hms)

/-- The sub-steps of `LS.TICK`: `TQ.CLEAN` leaves `ST`, so the handler is that of the state the tick starts in (R261). -/
theorem runTick_lsTick_effect (now : Ticks) :
    Effect (handlerParts s.st) s (runTick [.clean now, .handler now, .finish] s) := by
  have hw := scheduler_mem_handlerParts s.st
  obtain ⟨n, hn⟩ := Nat.exists_eq_succ_of_ne_zero (runLength_pos (takeCut s).1).ne'
  have hcut : (takeCut s).2.st = s.st := (takeCut_effect ∅ s).st_eq (by simp)
  have hclean : (cleanUp now (takeCut s).2).2.st = s.st := ((cleanUp_effect ∅ _ now).st_eq (by simp)).trans hcut
  rw [runTick, hn]
  refine ((takeCut_effect _ s).trans (cleanUp_effect _ _ now)).trans (drive_effect _ _ hw n [.handler now, .finish] ⟨?_, ?_⟩)
  · simp [hclean]
  · simp

/-! ## Sends (R279) -/

theorem runSend_effect (who : Nat) (dest : Addr) (n : Nat) (ps : List Buf) : Effect w s (runSend who dest n ps s) := by
  induction ps generalizing n s with
  | nil => rw [runSend_nil]; exact finish_effect w s _ _ _
  | cons p ps ih =>
    cases n with
    | zero => exact { inv := id }
    | succ n =>
      have henq := enqueue_effect w s p dest .low false
      unfold runSend
      dsimp only
      split
      · exact henq.trans (ih _ n)
      · exact henq.trans (finish_effect w _ _ _ _)

theorem startSend_effect (dest : Addr) (ps : List Buf) : Effect w s (startSend dest ps s) :=
  (takeCut_effect w s).trans (runSend_effect w _ _ _ _ _)

theorem resumeSend_effect (k : Nat) : Effect w s (resumeSend k s) := by
  unfold resumeSend
  split
  · next j _ =>
    have herase : Effect w s { s with sends := s.sends.eraseIdx k } := { inv := id }
    exact (herase.trans (takeCut_effect w _)).trans (runSend_effect w _ _ _ _ _)
  · exact .refl w s

end SubSteps

/-! ## Operations -/

/-- What an operation answers, when it answers a state, is within the parts `w`. -/
def Runs (w : Finset Part) (s : State) (r : Result) : Prop := ∀ t, r = .next t → Effect w s t

theorem Effect.runs {w : Finset Part} {s t : State} (h : Effect w s t) : Runs w s (.next t) := by
  rintro u ⟨⟩
  exact h

section Operations

variable {w : Finset Part} (s : State)

theorem runs_fault (f : Fault) : Runs w s (.fault f) := fun _ h => nomatch h

theorem runs_refused (r : Refusal) : Runs w s (.refused r) := fun _ h => nomatch h

theorem startTick_runs {ms : List Micro} {u : State} (h : Effect w s (runTick ms u)) : Runs w s (startTick ms u) := by
  unfold startTick
  split
  · exact h.runs
  · exact runs_fault s _

/-- A state row (R261): `ST` is set, and the handler of that state runs. -/
theorem runHandler_runs (st : SchedState) (now : Ticks) : Runs (handlerParts st) s (runHandler st now s) := by
  have hw := scheduler_mem_handlerParts st
  have hst : Effect (handlerParts st) s { s with st := st } := { inv := id, scheduler := fun hn => absurd hw hn }
  exact startTick_runs s (hst.trans (runTick_effect _ { s with st := st } hw _ ⟨by simp, by simp⟩))

theorem routeReceived_runs (p : Buf) : Runs {.scheduler, .trackers} s (routeReceived p s) :=
  startTick_runs s (runTick_effect _ s (by decide) _ ⟨by simp, by simp⟩)

theorem enqueueCmd_runs (p : Buf) (dest : Addr) (prio : Prio) (droppable : Bool) :
    Runs w s (enqueueCmd p dest prio droppable s) :=
  ((enqueue_effect w s p dest prio droppable).trans (finish_effect w _ _ _ _)).runs

theorem execLsSend_runs (data : Buf) (type : PType) (dest : Byte) (requireAck allowDrop : Bool) :
    Runs w s (execLsSend data type dest requireAck allowDrop s) := by
  have hroom := sendRoom_effect w s type allowDrop (chunksOf s.params.maxPayload data).length
  unfold execLsSend
  split
  · exact (finish_effect w s _ _ _).runs
  · split
    · exact (finish_effect w s _ _ _).runs
    · split
      · exact (finish_effect w s _ _ _).runs
      · dsimp only
        split
        · exact (hroom.trans (startSend_effect w _ _ _)).runs
        · exact (hroom.trans (finish_effect w _ _ _ _)).runs

theorem execLsReset_runs : Runs {.scheduler, .counters, .trackers, .faults} s (execLsReset s) := by
  unfold execLsReset
  split
  · exact ((resetBlock_effect s).trans (finish_effect _ _ _ _ _)).runs
  · exact runs_refused s _

/-- A codec operation or a register read answers on the port and writes nothing (R83 (d), R283). -/
theorem answer_runs {r : Result} (h : ∃ op c d, r = .next (finish op c d s)) : Runs w s r := by
  obtain ⟨op, c, d, rfl⟩ := h
  exact (finish_effect w s op c d).runs

theorem execPktCsum_answers (p : Buf) : ∃ op c d, execPktCsum p s = .next (finish op c d s) := by
  unfold execPktCsum; split <;> exact ⟨_, _, _, rfl⟩

theorem execPktCheck_answers (p : Buf) : ∃ op c d, execPktCheck p s = .next (finish op c d s) := by
  unfold execPktCheck; split <;> exact ⟨_, _, _, rfl⟩

theorem execPktFrag_answers (data : Buf) (type : PType) (qos : Bool) (src dst : Addr) :
    ∃ op c d, execPktFrag data type qos src dst s = .next (finish op c d s) := by
  unfold execPktFrag; split <;> exact ⟨_, _, _, rfl⟩

theorem execCfgRd_answers (r : CfgReg) : ∃ op c d, execCfgRd r s = .next (finish op c d s) := by
  unfold execCfgRd; split <;> exact ⟨_, _, _, rfl⟩

/-- Every operation stays within its parts. -/
theorem exec_runs (i : Instr) : Runs (instrParts s.st i) s (exec i s) := by
  cases i with
  | pktEncode payload type qos split src dst => exact answer_runs s ⟨_, _, _, rfl⟩
  | pktCsum p => exact answer_runs s (execPktCsum_answers s p)
  | pktCheck p => exact answer_runs s (execPktCheck_answers s p)
  | pktToWire p key => exact answer_runs s ⟨_, _, _, rfl⟩
  | pktFromWire b key => exact answer_runs s ⟨_, _, _, rfl⟩
  | pktFrag data type qos src dst => exact answer_runs s (execPktFrag_answers s data type qos src dst)
  | tqEnq p dest prio droppable => exact enqueueCmd_runs s p dest prio droppable
  | tqPeek now => exact ((peek_effect _ s now).trans (finish_effect _ _ _ _ _)).runs
  | tqNext now => exact ((nextSendable_effect _ s now (by simp)).trans (finish_effect _ _ _ _ _)).runs
  | tqMark p now => exact ((markSent_effect _ s p now).trans (finish_effect _ _ _ _ _)).runs
  | tqRmkey dest seq => exact ((removeByKey_effect _ s dest seq).trans (finish_effect _ _ _ _ _)).runs
  | tqClean now => exact ((cleanUp_effect _ s now).trans (finish_effect _ _ _ _ _)).runs
  | rtAccept a p => exact ((acceptPkt_effect _ s a p (by simp)).trans (finish_effect _ _ _ _ _)).runs
  | lsTick now => exact startTick_runs s (runTick_lsTick_effect s now)
  | lsSend data type dest requireAck allowDrop => exact execLsSend_runs s data type dest requireAck allowDrop
  | lsReset => exact execLsReset_runs s
  | cfgWr reg value => exact ((cfgWrite_effect _ s reg value (by simp)).trans (finish_effect _ _ _ _ _)).runs
  | cfgRd reg => exact answer_runs s (execCfgRd_answers s reg)
  | tPing h body | tOta h body | tData h body | tAck h body | tId h body | hdrReserved5 h body | hdrReserved6 h body
  | hdrReserved7 h body => exact routeReceived_runs s _
  | ackp acked => exact (removeByKey_effect _ s _ acked).runs
  | stInit now | stListening now | stTransmitting now | stEnterListen now | stEnterTransmit now =>
    exact runHandler_runs s _ now
  | prioLow p dest droppable | prioHigh p dest droppable | prioHighest p dest droppable =>
    exact enqueueCmd_runs s p dest _ droppable

end Operations

/-! ## Steps -/

/-- Taking a turn changes nothing the port looks at. -/
theorem busy_nextTurn (s : State) (a : Nat) : busy (nextTurn s).2 a = busy s a := by
  unfold nextTurn
  split
  · rfl
  · split <;> rfl

theorem nextTurn_port (s : State) : (nextTurn s).2.port = s.port := by
  unfold nextTurn
  split
  · rfl
  · split <;> rfl

/-- What a step can do: run the operation the port fetched, go on with the tick in progress, or neither, and then no restricted
part is written. -/
theorem step_cases {s t : State} (h : step s = .next t) :
    (∃ i, stepRuns i s ∧ Effect (instrParts s.st i) s t) ∨
    ((nextTurn s).1 = .tick ∧ ∀ w, .scheduler ∈ w → TickWithin w s.st s.tick → Effect w s t) ∨
    ((nextTurn s).1 ≠ .tick ∧ Effect ∅ s t) := by
  have hturn := nextTurn_effect ∅ s
  have hst := hturn.st_eq (by simp)
  have htick := hturn.tick_eq (by simp)
  unfold step at h
  split at h
  · next hport =>
    unfold portStep at h
    obtain ⟨hnone, -⟩ | ⟨before, f, after, hsome, hq, hbusy, hbefore⟩ := nextFrame_cases (nextTurn s).2
    · rw [hnone] at h
      cases h
      exact .inr (.inr ⟨by simp [hport], hturn⟩)
    · rw [hsome] at h
      dsimp only at h
      have hfetch := fun w => (nextTurn_effect w s).trans (fetched_effect w _ f (before ++ after))
      split at h
      · next i hi =>
        refine .inl ⟨i, ⟨hport, before, f, after, ?_, ?_, ?_, hi⟩, ?_⟩
        · rw [← nextTurn_port, hq]
        · simpa [busy_nextTurn] using hbefore
        · simpa [busy_nextTurn] using hbusy
        · rw [← hst]
          exact (hfetch _).trans (exec_runs _ i t h)
      · cases h
        exact .inr (.inr ⟨by simp [hport], (hfetch ∅).trans (finish_effect _ _ _ _ _)⟩)
  · next hport =>
    cases h
    refine .inr (.inl ⟨hport, fun w hw hms => ?_⟩)
    exact (nextTurn_effect w s).trans (resumeTick_effect w _ hw (by rwa [hst, htick]))
  · next k hport =>
    cases h
    exact .inr (.inr ⟨by simp [hport], hturn.trans (resumeSend_effect ∅ _ k)⟩)

end Sys2Proof.Machine
end


section
/-! SUPPORT. The statements on the whole machine: the invariant, and who writes which part. -/

namespace Sys2Proof.Machine

/-! ## Which operations and sub-steps have a part -/

/-- The operations that may write the scheduler's registers (R32, R33, R34). -/
theorem scheduler_mem_instrParts (st : SchedState) (i : Instr) : .scheduler ∈ instrParts st i ↔
    i.format = .hdr ∨ i.format = .state ∨ (∃ n, i = .lsTick n) ∨ i = .lsReset := by
  cases i <;> simp [Instr.format]

/-- The operations that may write a sequence counter (R31). -/
theorem counters_mem_instrParts (st : SchedState) (i : Instr) : .counters ∈ instrParts st i ↔
    i = .lsReset ∨ (∃ n, i = .tqNext n) ∨ (∃ n, i = .stTransmitting n) ∨ (st = .transmitting ∧ ∃ n, i = .lsTick n) := by
  cases i <;> simp

/-- The operations that may write a tracker (R40). -/
theorem trackers_mem_instrParts (st : SchedState) (i : Instr) : .trackers ∈ instrParts st i ↔
    i = .lsReset ∨ (∃ a p, i = .rtAccept a p) ∨ i.format = .hdr ∨ (∃ n, i = .stListening n) ∨
      (st = .listening ∧ ∃ n, i = .lsTick n) := by
  cases i <;> simp [Instr.format]

/-- Only reset may clear `FLT` (R35). -/
theorem faults_mem_instrParts (st : SchedState) (i : Instr) : .faults ∈ instrParts st i ↔ i = .lsReset := by
  cases i <;> simp

/-- Only `CFG.WR` may write the configuration (R37). -/
theorem config_mem_instrParts (st : SchedState) (i : Instr) : .config ∈ instrParts st i ↔ ∃ r v, i = .cfgWr r v := by
  cases i <;> simp

/-- A tick writes neither the configuration nor clears `FLT`. -/
theorem Micro.parts_subset (m : Micro) : m.parts ⊆ {.scheduler, .counters, .trackers} := by
  cases m with
  | handler now => exact subset_rfl
  | _ => simp

/-- Sub-steps that neither dispatch nor start a handler write no counter. -/
theorem Micro.parts_subset_of_no_dispatch {m : Micro} (hnext : ∀ n, m ≠ .next n) (hhandler : ∀ n, m ≠ .handler n) :
    m.parts ⊆ {.scheduler, .trackers} := by
  cases m with
  | handler now => exact absurd rfl (hhandler now)
  | next now => exact absurd rfl (hnext now)
  | _ => simp

/-- Sub-steps that neither poll, route, accept nor start a handler write no tracker. -/
theorem Micro.parts_subset_of_no_accept {m : Micro} (hpoll : m ≠ .poll) (hroute : ∀ p, m ≠ .route p)
    (haccept : ∀ p, m ≠ .accept p) (hhandler : ∀ n, m ≠ .handler n) : m.parts ⊆ {.scheduler, .counters} := by
  cases m with
  | handler now => exact absurd rfl (hhandler now)
  | poll => exact absurd rfl hpoll
  | route p => exact absurd rfl (hroute p)
  | accept p => exact absurd rfl (haccept p)
  | _ => simp

/-- The remaining sub-steps of a tick, with no dispatch among them and no handler that dispatches, write no counter. -/
theorem tickWithin_of_no_dispatch {st : SchedState} {ms : List Micro}
    (h : ∀ n, .next n ∉ ms ∧ .handler n ∉ ms.tail ∧ (st = .transmitting → ms.head? ≠ some (.handler n))) :
    TickWithin {.scheduler, .trackers} st ms := by
  have hnext : ∀ m ∈ ms, ∀ n, m ≠ .next n := fun m hm n he => (h n).1 (he ▸ hm)
  refine ⟨fun m hm => ?_, fun m hm => ?_⟩
  · by_cases hhandler : ∃ n, m = .handler n
    · obtain ⟨n, rfl⟩ := hhandler
      have hst : st ≠ .transmitting := fun hst => (h n).2.2 hst hm
      show handlerParts st ⊆ _
      cases st <;> simp [handlerParts] at hst ⊢
    · have hparts := Micro.parts_subset_of_no_dispatch (hnext m (List.mem_of_mem_head? hm)) fun n he => hhandler ⟨n, he⟩
      exact (m.partsAt_subset st).trans hparts
  · exact Micro.parts_subset_of_no_dispatch (hnext m (List.mem_of_mem_tail hm)) fun n he => (h n).2.1 (he ▸ hm)

/-- The remaining sub-steps of a tick, with no poll, route or accept among them and no handler that polls, write no
tracker. -/
theorem tickWithin_of_no_accept {st : SchedState} {ms : List Micro} (hpoll : .poll ∉ ms)
    (hpkt : ∀ p, .route p ∉ ms ∧ .accept p ∉ ms)
    (h : ∀ n, .handler n ∉ ms.tail ∧ (st = .listening → ms.head? ≠ some (.handler n))) :
    TickWithin {.scheduler, .counters} st ms := by
  have hparts : ∀ m ∈ ms, (∀ n, m ≠ .handler n) → m.parts ⊆ {.scheduler, .counters} := fun m hm =>
    Micro.parts_subset_of_no_accept (fun he => hpoll (he ▸ hm)) (fun p he => (hpkt p).1 (he ▸ hm)) fun p he =>
      (hpkt p).2 (he ▸ hm)
  refine ⟨fun m hm => ?_, fun m hm => hparts m (List.mem_of_mem_tail hm) fun n he => (h n).1 (he ▸ hm)⟩
  by_cases hhandler : ∃ n, m = .handler n
  · obtain ⟨n, rfl⟩ := hhandler
    have hst : st ≠ .listening := fun hst => (h n).2 hst hm
    show handlerParts st ⊆ _
    cases st <;> simp [handlerParts] at hst ⊢
  · exact (m.partsAt_subset st).trans (hparts m (List.mem_of_mem_head? hm) fun n he => hhandler ⟨n, he⟩)

/-- The sub-steps of any tick stay within these parts. -/
theorem tickWithin_all (st : SchedState) (ms : List Micro) : TickWithin {.scheduler, .counters, .trackers} st ms :=
  tickWithin_of_parts (fun m _ => m.parts_subset) st

/-! ## What an operation leaves when those that write a part are excluded

`P` says which operation runs: as the operation executed (`i = ·`) or as the one the step runs (`stepRuns · s`). -/

section Excluded

variable {P : Instr → Prop} {i : Instr} {st : SchedState} {s t : State}

theorem Effect.counters_of_excluded (h : Effect (instrParts st i) s t) (hi : P i) (hreset : ¬P .lsReset)
    (hnext : ∀ n, ¬P (.tqNext n)) (htransmit : ∀ n, ¬P (.stTransmitting n))
    (htick : st = .transmitting → ∀ n, ¬P (.lsTick n)) : t.seq = s.seq := by
  refine h.counters ?_
  rw [counters_mem_instrParts]
  rintro (rfl | ⟨n, rfl⟩ | ⟨n, rfl⟩ | ⟨hst, n, rfl⟩)
  exacts [hreset hi, hnext n hi, htransmit n hi, htick hst n hi]

theorem Effect.trackers_of_excluded (h : Effect (instrParts st i) s t) (hi : P i) (hreset : ¬P .lsReset)
    (haccept : ∀ a p, ¬P (.rtAccept a p)) (hhdr : ∀ j : Instr, j.format = .hdr → ¬P j)
    (hlisten : ∀ n, ¬P (.stListening n)) (htick : st = .listening → ∀ n, ¬P (.lsTick n)) : t.rt = s.rt := by
  refine h.trackers ?_
  rw [trackers_mem_instrParts]
  rintro (rfl | ⟨a, p, rfl⟩ | hfmt | ⟨n, rfl⟩ | ⟨hst, n, rfl⟩)
  exacts [hreset hi, haccept a p hi, hhdr i hfmt hi, hlisten n hi, htick hst n hi]

theorem Effect.faults_of_excluded (h : Effect (instrParts st i) s t) (hi : P i) (hreset : ¬P .lsReset) :
    t.flt &&& s.flt = s.flt := by
  refine h.faults ?_
  rw [faults_mem_instrParts]
  rintro rfl
  exact hreset hi

theorem Effect.config_of_excluded (h : Effect (instrParts st i) s t) (hi : P i) (hwrite : ∀ r v, ¬P (.cfgWr r v)) :
    t.config = s.config := by
  refine h.config ?_
  rw [config_mem_instrParts]
  rintro ⟨r, v, rfl⟩
  exact hwrite r v hi

end Excluded

/-- The configuration, register by register. -/
theorem config_eq_iff (s t : State) : t.config = s.config ↔
    t.cfgAddr = s.cfgAddr ∧ t.cfgSf = s.cfgSf ∧ t.cfgKeyEn = s.cfgKeyEn ∧ t.cfgKey = s.cfgKey ∧
      t.cfgTimeout = s.cfgTimeout ∧ t.cfgMaxRetry = s.cfgMaxRetry ∧ t.cfgPromisc = s.cfgPromisc := by
  simp only [State.config, Prod.mk.injEq]

end Sys2Proof.Machine
end

section
/-! SUPPORT. The obligations on the whole machine (R31 to R35, R37, R39, R40). -/

namespace Sys2Proof.Machine

/-- Settles O59: the state after reset is that of the default parameters, whose retry budget is legal. -/
theorem resetMeetsInvariant : Obligations.ResetMeetsInvariant :=
  init_inv Params.default (by decide)

/-- Settles O60: whatever a step runs, its effect keeps the invariant. -/
theorem stepKeepsInvariant : Obligations.StepKeepsInvariant := by
  intro s t hinv hstep
  obtain ⟨i, -, h⟩ | ⟨-, h⟩ | ⟨-, h⟩ := step_cases hstep
  · exact h.inv hinv
  · exact (h _ (by decide) (tickWithin_all _ _)).inv hinv
  · exact h.inv hinv

/-- Settles O56: the operations, and the remaining sub-steps of a tick, that are excluded are all that have the counters (the
trackers) among their parts. -/
theorem countersAndTrackersPrivate : Obligations.CountersAndTrackersPrivate := by
  refine ⟨fun i s t hexec hreset => ?_, fun s t hstep hreset => ?_⟩
  · have h := exec_runs s i t hexec
    refine ⟨fun hnext htransmit htick => ?_, fun haccept hhdr hlisten htick => ?_⟩
    · exact h.counters_of_excluded (P := (i = ·)) rfl hreset hnext htransmit htick
    · exact h.trackers_of_excluded (P := (i = ·)) rfl hreset haccept (fun j hj he => hhdr (he ▸ hj)) hlisten htick
  · refine ⟨fun hnext htransmit htick hgoes => ?_, fun haccept hhdr hlisten htick hgoes => ?_⟩
    · obtain ⟨i, hruns, h⟩ | ⟨hturn, h⟩ | ⟨-, h⟩ := step_cases hstep
      · exact h.counters_of_excluded (P := (stepRuns · s)) hruns hreset hnext htransmit htick
      · exact (h _ (by decide) (tickWithin_of_no_dispatch (hgoes hturn))).counters (by decide)
      · exact h.counters (by decide)
    · obtain ⟨i, hruns, h⟩ | ⟨hturn, h⟩ | ⟨-, h⟩ := step_cases hstep
      · exact h.trackers_of_excluded (P := (stepRuns · s)) hruns hreset haccept hhdr hlisten htick
      · obtain ⟨hpoll, hpkt, hhandler⟩ := hgoes hturn
        exact (h _ (by decide) (tickWithin_of_no_accept hpoll hpkt hhandler)).trackers (by decide)
      · exact h.trackers (by decide)

/-- Settles O57: no operation but a tick, a handler, an inbound packet and reset has the scheduler's registers among its parts,
and a send that goes on writes no restricted part. -/
theorem schedulerStatePrivate : Obligations.SchedulerStatePrivate := by
  intro s t h
  have hkept : t.scheduler = s.scheduler := by
    obtain ⟨i, hexec, hhdr, hstate, htick, hreset⟩ | ⟨hstep, k, hturn⟩ := h
    · refine (exec_runs s i t hexec).scheduler ?_
      rw [scheduler_mem_instrParts]
      rintro (hfmt | hfmt | ⟨n, rfl⟩ | rfl)
      exacts [hhdr hfmt, hstate hfmt, htick n rfl, hreset rfl]
    · obtain ⟨i, ⟨hport, -⟩, -⟩ | ⟨htick, -⟩ | ⟨-, h⟩ := step_cases hstep
      · simp [hturn] at hport
      · simp [hturn] at htick
      · exact h.scheduler (by decide)
  simpa only [State.scheduler, Prod.mk.injEq] using hkept

/-- Settles O58: every operation keeps the parameters, and only reset and `CFG.WR` have `FLT` and the configuration among their
parts; the sub-steps of a tick and a send that goes on have neither. -/
theorem fltStickyAndConfigPrivate : Obligations.FltStickyAndConfigPrivate := by
  refine ⟨fun i s t hexec => ?_, fun s t hstep => ?_⟩
  · have h := exec_runs s i t hexec
    exact ⟨h.faults_of_excluded (P := (i = ·)) rfl, h.params,
      fun hwrite => (config_eq_iff s t).1 (h.config_of_excluded (P := (i = ·)) rfl hwrite)⟩
  · obtain ⟨i, hruns, h⟩ | ⟨-, h⟩ | ⟨-, h⟩ := step_cases hstep
    · exact ⟨h.faults_of_excluded (P := (stepRuns · s)) hruns, h.params,
        fun hwrite => (config_eq_iff s t).1 (h.config_of_excluded (P := (stepRuns · s)) hruns hwrite)⟩
    · have htick := h _ (by decide) (tickWithin_all _ _)
      exact ⟨fun _ => htick.faults (by decide), htick.params, fun _ => (config_eq_iff s t).1 (htick.config (by decide))⟩
    · exact ⟨fun _ => h.faults (by decide), h.params, fun _ => (config_eq_iff s t).1 (h.config (by decide))⟩

end Sys2Proof.Machine
end

section
/-! SUPPORT. The obligations on single operations: `TQ.ENQ`, `TQ.MARK`, `RT.ACCEPT` of a fragment, `CFG.WR`. -/

namespace Sys2Proof.Machine

/-! ## `TQ.ENQ` (R192, R193) -/

/-- `TQ.ENQ` and the priority rows are an enqueue from the command port (R123, R192). -/
theorem exec_enqueueCmd {i : Instr} {p : Buf} {dest : Addr} {prio : Prio} {droppable : Bool}
    (hi : i = .tqEnq p dest prio droppable ∨ (i = .prioLow p dest droppable ∧ prio = .low) ∨
      (i = .prioHigh p dest droppable ∧ prio = .high) ∨ (i = .prioHighest p dest droppable ∧ prio = .highest)) (s : State) :
    exec i s = enqueueCmd p dest prio droppable s := by
  obtain rfl | ⟨rfl, rfl⟩ | ⟨rfl, rfl⟩ | ⟨rfl, rfl⟩ := hi <;> rfl

/-- The cap refuses a droppable packet of no exempt type (R193). -/
theorem capped_iff (p : Buf) (droppable : Bool) (s : State) : (droppable && !exempt s p && capReached s) = true ↔
    droppable = true ∧ typeOf p ∉ s.params.exemptTypes ∧ s.params.qCap ≤ s.tq.length := by
  simp [exempt, capReached, and_assoc]

/-- The queue is at its depth (R192). -/
theorem full_iff (s : State) :
    exceedsDepth s (s.tq.length + 1) = true ↔ ∃ d, s.params.qDepth = some d ∧ d ≤ s.tq.length := by
  simp [exceedsDepth_iff]

section Enqueue

variable {p : Buf} {droppable : Bool} {s : State} (dest : Addr) (prio : Prio)

/-- A packet longer than an entry holds (R38). -/
theorem enqueue_of_long (hlong : s.params.mtu < p.length) :
    enqueue p dest prio droppable s = (.eBadCmd, release s) := by
  simp [enqueue, atomic, hlong]

/-- A packet without a whole header (R192). -/
theorem enqueue_of_short (hmax : p.length ≤ s.params.mtu) (hshort : p.length < 5) :
    enqueue p dest prio droppable s = (.eShort, release s) := by
  simp [enqueue, atomic, Nat.not_lt.2 hmax, Config.hdrLen, hshort]

/-- A packet the cap refuses (R193). -/
theorem enqueue_of_capped (hmax : p.length ≤ s.params.mtu) (hmin : 5 ≤ p.length)
    (hcap : (droppable && !exempt s p && capReached s) = true) :
    enqueue p dest prio droppable s = (.eQfull, release s) := by
  simp only [enqueue, atomic, if_neg (Nat.not_lt.2 hmax), Config.hdrLen, if_neg (Nat.not_lt.2 hmin), if_pos hcap]

/-- A queue at its depth (R192). -/
theorem enqueue_of_full (hmax : p.length ≤ s.params.mtu) (hmin : 5 ≤ p.length)
    (hcap : ¬(droppable && !exempt s p && capReached s) = true) (hfull : exceedsDepth s (s.tq.length + 1) = true) :
    enqueue p dest prio droppable s = (.eQovf, release (raise .eQovf [s.tq.length] s)) := by
  simp only [enqueue, atomic, if_neg (Nat.not_lt.2 hmax), Config.hdrLen, if_neg (Nat.not_lt.2 hmin), if_neg hcap,
    if_pos hfull]

/-- A packet that is taken (R192). -/
theorem enqueue_of_room (hmax : p.length ≤ s.params.mtu) (hmin : 5 ≤ p.length)
    (hcap : ¬(droppable && !exempt s p && capReached s) = true) (hroom : ¬exceedsDepth s (s.tq.length + 1) = true) :
    enqueue p dest prio droppable s =
      (.ok, release { s with tq := insertEntry (newEntry p dest prio s) s.tq, free := s.free + 1 }) := by
  simp only [enqueue, atomic, if_neg (Nat.not_lt.2 hmax), Config.hdrLen, if_neg (Nat.not_lt.2 hmin), if_neg hcap,
    if_neg hroom]

end Enqueue

/-- Settles O20: one lemma per outcome, and `insertEntry_spec` for the place of the new entry. -/
theorem tqEnqResult : Obligations.TqEnqResult := by
  intro p dest prio droppable s i hi
  have hrun : exec i s = .next (finish opTqEnq (enqueue p dest prio droppable s).1 .none
      (enqueue p dest prio droppable s).2) := exec_enqueueCmd hi s
  simp only [← capped_iff, ← full_iff, hrun]
  refine ⟨fun hlong => ?_, fun hmax => ⟨fun hshort => ?_, fun hmin hcap => ?_, fun hmin hcap hfull => ?_,
    fun hmin hcap hroom => ?_⟩⟩
  · rw [enqueue_of_long dest prio hlong]
    rfl
  · rw [enqueue_of_short dest prio hmax hshort]
    rfl
  · rw [enqueue_of_capped dest prio hmax hmin hcap]
    rfl
  · rw [enqueue_of_full dest prio hmax hmin hcap hfull]
    simp [finish, raise, logRec, emit, fltMask, opTqEnq, release]
  · obtain ⟨before, after, hq, hins, hafter, hbefore⟩ := insertEntry_spec (newEntry p dest prio s) s.tq
    refine ⟨before, after, Config.freeLastSent s.free, hq, hbefore, hafter, ?_⟩
    rw [enqueue_of_room dest prio hmax hmin hcap hroom, hins]
    rfl

/-! ## `TQ.MARK` (R197) -/

/-- A transmitted packet belongs to a dispatched entry that holds it (R197). -/
theorem isDispatched_iff (p : Buf) (e : Entry) : isDispatched p e = true ↔ e.seqAssigned = true ∧ e.pkt = p := by
  simp [isDispatched]

/-- The marked entry is sendable again once its timeout has elapsed and its budget allows one more attempt (R191), and it
expires when the budget does not (R199); as with `sent_count + 1`. -/
theorem marked_sendable_expired (e : Entry) (now n : Ticks) (hretry : e.maxRetry.toNat ≤ 254) :
    (sendable { e with sentCount := bumpCount e, lastSent := now } n = true ↔
      e.timeout.toNat ≤ (n - now).toNat ∧ e.sentCount.toNat + 1 ≤ e.maxRetry.toNat) ∧
    (expired { e with sentCount := bumpCount e, lastSent := now } n = true ↔
      e.maxRetry.toNat < e.sentCount.toNat + 1 ∧ e.timeout.toNat ≤ (n - now).toNat) := by
  obtain ⟨-, hne, -, hbudget⟩ := bumpCount_spec e
  have hle := hbudget hretry
  constructor
  · rw [sendable_iff]
    simp only [hne, false_or, hle]
  · rw [expired_iff]
    simp only [← not_le, hle]

/-- `sent_count + 1` where the count has not passed the budget, also for the budget 255 that no register holds (R197). -/
theorem bumpCount_eq_succ (e : Entry) (hle : e.sentCount.toNat ≤ e.maxRetry.toNat) (hne : e.sentCount ≠ 255) :
    bumpCount e = e.sentCount + 1 := by
  have hlt : e.sentCount.toNat ≠ 255 := fun h => hne (BitVec.eq_of_toNat_eq h)
  apply BitVec.eq_of_toNat_eq
  rw [bumpCount, BitVec.toNat_ofNat, BitVec.toNat_add]
  simp
  omega

/-- `TQ.MARK` when the first entry that holds the packet is `e`. -/
theorem markSent_of_first (p : Buf) (now : Ticks) (s : State) (before after : List Entry) (e : Entry)
    (hq : s.tq = before ++ e :: after) (hseq : e.seqAssigned = true) (hpkt : e.pkt = p)
    (hbefore : ∀ x ∈ before, ¬(x.seqAssigned = true ∧ x.pkt = p)) :
    markSent p now s =
      (.ok, { s with
        tq := if qosOf p then before ++ { e with sentCount := bumpCount e, lastSent := now } :: after else before ++ after
        lock := .free }) := by
  have hfirst := splitFirst_isDispatched p s.tq before after e hq hseq hpkt hbefore
  simp only [markSent, atomic, hfirst, hpkt, release]
  split <;> rfl

/-- Settles O22. -/
theorem tqMarkResult : Obligations.TqMarkResult := by
  intro p now s
  have hrun : exec (.tqMark p now) s = .next (finish opTqMark (markSent p now s).1 .none (markSent p now s).2) := rfl
  refine ⟨fun hnone => ?_, fun before after e hq hseq hpkt hbefore => ?_⟩
  · obtain ⟨-, h⟩ | ⟨before, e, after, hq, hd, -⟩ := markSent_cases p now s
    · rw [hrun, h]
      simp [finish, raise, logRec, emit, fltMask, opTqMark]
    · exact absurd ((isDispatched_iff p e).1 hd) (hnone e (by simp [hq]))
  · rw [hrun, markSent_of_first p now s before after e hq hseq hpkt hbefore]
    refine ⟨fun hqos => by simp [hqos, finish, emit, opTqMark], fun hqos => ?_⟩
    exact ⟨bumpCount e, (bumpCount_spec e).1, bumpCount_eq_succ e,
      fun hretry n => marked_sendable_expired e now n hretry, by simp [hqos, finish, emit, opTqMark]⟩

/-! ## Enqueues of a single producer (R39 (a), (b), R201) -/

/-- What a producer gives of a packet, as the queue entry keeps it. -/
def Entry.given (e : Entry) : Buf × Addr × Prio := (e.pkt, e.dest, e.prio)

/-- Packets by priority, highest first, and by arrival within a priority (R39 (a), (b)). -/
def byPriority (qs : List (Buf × Addr × Prio)) : List (Buf × Addr × Prio) :=
  qs.filter (fun q => q.2.2 = .highest) ++ qs.filter (fun q => q.2.2 = .high) ++ qs.filter (fun q => q.2.2 = .low)

theorem length_byPriority (qs : List (Buf × Addr × Prio)) : (byPriority qs).length = qs.length := by
  induction qs with
  | nil => rfl
  | cons q qs ih =>
    obtain ⟨p, d, prio⟩ := q
    cases prio <;> simp [byPriority] at ih ⊢ <;> omega

/-- An entry goes behind those of its priority or a higher one and before those of a lower one (R192). -/
theorem insertEntry_append (e : Entry) (before after : List Entry) (hbefore : ∀ x ∈ before, e.prio.num ≤ x.prio.num)
    (hafter : ∀ x ∈ after, x.prio.num < e.prio.num) : insertEntry e (before ++ after) = before ++ e :: after := by
  induction before with
  | nil =>
    cases after with
    | nil => rfl
    | cons x xs => simp [insertEntry, hafter x (by simp)]
  | cons b bs ih =>
    obtain ⟨hb, hbs⟩ := List.forall_mem_cons.1 hbefore
    simp [insertEntry, Nat.not_lt.2 hb, ih hbs]

/-- Inserting the next arrival into a queue that stands by priority and arrival keeps it so. -/
theorem insertEntry_byPriority (e : Entry) (q : List Entry) (qs : List (Buf × Addr × Prio))
    (h : q.map Entry.given = byPriority qs) : (insertEntry e q).map Entry.given = byPriority (qs ++ [e.given]) := by
  obtain ⟨q', low, rfl, h', hlow⟩ := List.map_eq_append_iff.1 h
  obtain ⟨highest, high, rfl, hhighest, hhigh⟩ := List.map_eq_append_iff.1 h'
  have hprio : ∀ (l : List Entry) (prio : Prio), l.map Entry.given = qs.filter (fun q => q.2.2 = prio) →
      ∀ x ∈ l, x.prio = prio := fun l prio hl x hx => by
    have hmem : x.given ∈ qs.filter (fun q => q.2.2 = prio) := hl ▸ List.mem_map_of_mem hx
    exact of_decide_eq_true (List.mem_filter.1 hmem).2
  have h2 := hprio highest .highest hhighest
  have h1 := hprio high .high hhigh
  have h0 := hprio low .low hlow
  cases he : e.prio with
  | low =>
    have hins := insertEntry_append e (highest ++ high ++ low) [] (by simp [he, Prio.num]) (by simp)
    rw [List.append_nil] at hins
    rw [hins]
    simp [byPriority, hhighest, hhigh, hlow, Entry.given, he]
  | high =>
    have hins := insertEntry_append e (highest ++ high) low
      (by
        intro x hx
        obtain hx | hx := List.mem_append.1 hx
        · simp [he, h2 x hx, Prio.num]
        · simp [he, h1 x hx])
      (by
        intro x hx
        simp [he, h0 x hx, Prio.num])
    rw [hins]
    simp [byPriority, hhighest, hhigh, hlow, Entry.given, he]
  | highest =>
    have hins := insertEntry_append e highest (high ++ low)
      (by
        intro x hx
        simp [he, h2 x hx])
      (by
        intro x hx
        obtain hx | hx := List.mem_append.1 hx
        · simp [he, h1 x hx, Prio.num]
        · simp [he, h0 x hx, Prio.num])
    rw [List.append_assoc, hins]
    simp [byPriority, hhighest, hhigh, hlow, Entry.given, he]

/-- A non-droppable packet of 5 to `MTU` bytes is inserted where there is room (R192). -/
theorem exec_tqEnq_of_room (p : Buf) (dest : Addr) (prio : Prio) (s : State) (hmin : 5 ≤ p.length)
    (hmax : p.length ≤ s.params.mtu) (hroom : ∀ d ∈ s.params.qDepth, s.tq.length + 1 ≤ d) :
    ∃ t, exec (.tqEnq p dest prio false) s = .next t ∧ t.params = s.params ∧
      t.tq = insertEntry (newEntry p dest prio s) s.tq := by
  refine ⟨_, rfl, ?_⟩
  have hnotFull : ¬exceedsDepth s (s.tq.length + 1) = true := fun hfull => by
    obtain ⟨d, hd, hle⟩ := (full_iff s).1 hfull
    exact absurd (hroom d hd) (by omega)
  rw [enqueue_of_room dest prio hmax hmin (by simp) hnotFull]
  exact ⟨rfl, rfl⟩

/-- Enqueues after others: the queue stands by priority and arrival of all of them. -/
theorem execAll_tqEnq (qs : List (Buf × Addr × Prio)) : ∀ (s : State) (earlier : List (Buf × Addr × Prio)),
    s.tq.map Entry.given = byPriority earlier → (∀ q ∈ qs, 5 ≤ q.1.length ∧ q.1.length ≤ s.params.mtu) →
    (∀ d ∈ s.params.qDepth, earlier.length + qs.length ≤ d) →
    ∃ t, execAll (qs.map fun q => .tqEnq q.1 q.2.1 q.2.2 false) s = .next t ∧
      t.tq.map Entry.given = byPriority (earlier ++ qs) := by
  induction qs with
  | nil => exact fun s earlier hq _ _ => ⟨s, rfl, by simpa using hq⟩
  | cons q qs ih =>
    intro s earlier hq hlen hroom
    obtain ⟨hfirst, hrest⟩ := List.forall_mem_cons.1 hlen
    have hcount : s.tq.length = earlier.length := by
      rw [← length_byPriority earlier, ← hq, List.length_map]
    obtain ⟨u, hexec, hparams, htq⟩ := exec_tqEnq_of_room q.1 q.2.1 q.2.2 s hfirst.1 hfirst.2 fun d hd => by
      have := hroom d hd
      simp at this
      omega
    have hq' : u.tq.map Entry.given = byPriority (earlier ++ [q]) := by
      rw [htq]
      exact insertEntry_byPriority (newEntry q.1 q.2.1 q.2.2 s) s.tq earlier hq
    obtain ⟨t, hexec', ht⟩ := ih u (earlier ++ [q]) hq' (hparams ▸ hrest) fun d hd => by
      have := hroom d (hparams ▸ hd)
      simp at this ⊢
      omega
    exact ⟨t, by simpa [execAll, hexec] using hexec', by simpa using ht⟩

/-- Settles O26, by induction on the packets with those enqueued earlier. -/
theorem enqueueOrderIsPriorityThenArrival : Obligations.EnqueueOrderIsPriorityThenArrival := by
  intro s qs hempty hlen hroom
  exact execAll_tqEnq qs s [] (by simp [hempty, byPriority]) hlen (by simpa using hroom)

/-! ## `RT.ACCEPT` of a fragment (R231, R233, R234, R238) -/

/-- Settles O30. -/
theorem rtSplitFragmentIsBuffered : Obligations.RtSplitFragmentIsBuffered := by
  intro a p s tr missing hnew hsplit
  have hnew' : ¬((trackerAt s a).lastValid = true ∧ p = (trackerAt s a).last) := fun ⟨hv, hl⟩ => hnew ⟨hv, hl.symm⟩
  have hrun : exec (.rtAccept a p) s =
      .next (finish opRtAccept (acceptPkt a p s).1.code (.optMsg (acceptPkt a p s).1.msg) (acceptPkt a p s).2) := rfl
  have hlogs : missingLogs (trackerAt s a) p = missing := rfl
  obtain ⟨hv, hl, -⟩ | ⟨-, ⟨-, hfull, h⟩ | ⟨-, hroom, h⟩ | ⟨hnot, -⟩ | ⟨f, fs, hnot, -⟩⟩ := acceptPkt_cases a p s
  · exact absurd ⟨hv, hl⟩ hnew'
  · refine ⟨fun _ => ?_, fun hlt => ?_⟩
    · rw [hrun, h, hlogs]
      simp [finish, emit, setTracker, opRtAccept]
    · obtain ⟨m, hm, hle⟩ := (fragsFull_iff s _).1 hfull
      exact absurd (hlt m hm) (Nat.not_lt.2 hle)
  · refine ⟨fun hfull => ?_, fun _ => ?_⟩
    · have := (fragsFull_iff s (trackerAt s a)).2 hfull
      simp [hroom] at this
    · rw [hrun, h, hlogs]
      simp [finish, emit, setTracker, opRtAccept, tr, trackerAt]
  · simp [hsplit] at hnot
  · simp [hsplit] at hnot

/-! ## `CFG.WR` (R282, R37) -/

/-- The lock is off (R282). -/
theorem cfgUnlocked_iff (s : State) : cfgUnlocked s = true ↔ s.st = .init ∧ s.tq = [] := by
  simp [cfgUnlocked]

/-- A value is not legal (R37): too wide, a selector without an entry, or the retry budget 255. -/
theorem cfgLegal_eq_false_iff (s : State) (r : CfgReg) (v : Nat) : cfgLegal s r v = false ↔
    2 ^ r.width ≤ v ∨ r = .sf ∧ (∀ h : v < 8, s.params.minListen[v] = none) ∨ r = .maxRetry ∧ v = 255 := by
  cases r with
  | sf =>
    by_cases h : v < 8
    · simp [cfgLegal, CfgReg.fits, CfgReg.width, h]
    · simp [cfgLegal, CfgReg.fits, CfgReg.width, h]
  | maxRetry =>
    have hlegal : cfgLegal s .maxRetry v = true ↔ v < 256 ∧ v ≤ 254 :=
      Bool.and_eq_true_iff.trans (and_congr decide_eq_true_iff decide_eq_true_iff)
    rw [← Bool.not_eq_true, hlegal]
    simp [CfgReg.width]
    omega
  | addr | keyEn | key | timeout | promisc | flt => simp [cfgLegal, CfgReg.fits]

section CfgWrite

variable {r : CfgReg} {v : Nat} {s : State}

/-- A locked register (R282). -/
theorem cfgWrite_of_locked (hflt : r ≠ .flt) (haddr : r ≠ .addr) (hlock : cfgUnlocked s = false) :
    cfgWrite r v s = (.eCfgLock, release s) := by
  simp [cfgWrite, atomic, hflt, haddr, hlock]

/-- A value that is not legal for an unlocked register (R282). -/
theorem cfgWrite_of_illegal (hflt : r ≠ .flt) (hopen : ¬(r ≠ .addr ∧ cfgUnlocked s = false))
    (hbad : cfgLegal s r v = false) : cfgWrite r v s = (.eBadCfg, release s) := by
  have hlock : ¬(r != .addr && !cfgUnlocked s) = true := by simpa using hopen
  simp only [cfgWrite, atomic, beq_iff_eq, if_neg hflt, if_neg hlock, hbad, Bool.not_false, if_true]

/-- A legal value for an unlocked register (R282). -/
theorem cfgWrite_of_legal (hflt : r ≠ .flt) (hopen : ¬(r ≠ .addr ∧ cfgUnlocked s = false))
    (hlegal : ¬cfgLegal s r v = false) : cfgWrite r v s = (.ok, release (writeReg r v s)) := by
  have hlock : ¬(r != .addr && !cfgUnlocked s) = true := by simpa using hopen
  have hlegal' : ¬(!cfgLegal s r v) = true := by simpa using hlegal
  simp only [cfgWrite, atomic, beq_iff_eq, if_neg hflt, if_neg hlock, if_neg hlegal']

end CfgWrite

/-- Settles O54: one lemma per outcome, with the lock and the legal values in the terms of R282 and R37. -/
theorem cfgWrResult : Obligations.CfgWrResult := by
  intro reg v s locked illegal
  have hrun : exec (.cfgWr reg v) s = .next (finish opCfgWr (cfgWrite reg v s).1 .none (cfgWrite reg v s).2) := rfl
  have hlocked : locked ↔ reg ≠ .addr ∧ cfgUnlocked s = false := by
    rw [← Bool.not_eq_true, cfgUnlocked_iff]
  have hillegal : illegal ↔ cfgLegal s reg v = false := (cfgLegal_eq_false_iff s reg v).symm
  rw [hlocked, hillegal, hrun]
  refine ⟨fun hflt => ?_, fun hflt ⟨haddr, hlock⟩ => ?_, fun hflt hopen hbad => ?_, fun hflt hopen hlegal => ?_⟩
  · subst hflt
    rfl
  · rw [cfgWrite_of_locked hflt haddr hlock]
    rfl
  · rw [cfgWrite_of_illegal hflt hopen hbad]
    rfl
  · rw [cfgWrite_of_legal hflt hopen hlegal]
    cases reg with
    | flt => exact absurd rfl hflt
    | _ => rfl

end Sys2Proof.Machine
end

section
/-! SUPPORT. The control fields: what is in progress, the port, and the scripts of turns and interruptions. The sub-steps of a
tick and the enqueues of a send commute with writing them, so they neither read nor change them. -/

namespace Sys2Proof.Machine

/-- The fields that say what is in progress, what waits on the port, and who moves next. -/
structure Control where
  tick : List Micro
  sends : List SendJob
  port : List Frame
  issuer : Nat
  tickIssuer : Nat
  preempt : List (Option Nat)
  turns : List Turn
  choices : Nat

/-- The control fields of a state. -/
def State.control (s : State) : Control where
  tick := s.tick
  sends := s.sends
  port := s.port
  issuer := s.issuer
  tickIssuer := s.tickIssuer
  preempt := s.preempt
  turns := s.turns
  choices := s.choices

/-- The state with other control fields. -/
def State.withControl (s : State) (c : Control) : State :=
  { s with
    tick := c.tick
    sends := c.sends
    port := c.port
    issuer := c.issuer
    tickIssuer := c.tickIssuer
    preempt := c.preempt
    turns := c.turns
    choices := c.choices }

section WithControl

variable (s : State) (c : Control)

/-! ## What `withControl` leaves -/

theorem control_withControl : (s.withControl c).control = c := rfl
theorem withControl_control : s.withControl s.control = s := rfl

@[simp] theorem withControl_tq : (s.withControl c).tq = s.tq := rfl
@[simp] theorem withControl_params : (s.withControl c).params = s.params := rfl
@[simp] theorem withControl_rx : (s.withControl c).rx = s.rx := rfl

@[simp] theorem linkKey_withControl : linkKey (s.withControl c) = linkKey s := rfl
@[simp] theorem localAddr_withControl : localAddr (s.withControl c) = localAddr s := rfl
@[simp] theorem trackerAt_withControl (a : Addr) : trackerAt (s.withControl c) a = trackerAt s a := rfl
@[simp] theorem forMe_withControl (p : Buf) : forMe (s.withControl c) p = forMe s p := rfl
@[simp] theorem gapOk_withControl (now : Ticks) : gapOk (s.withControl c) now = gapOk s now := rfl
@[simp] theorem quiet_withControl (now : Ticks) : quiet (s.withControl c) now = quiet s now := rfl
@[simp] theorem checkPkt_withControl (p : Buf) : checkPkt (s.withControl c) p = checkPkt s p := rfl
@[simp] theorem encodePkt_withControl (payload : Buf) (type : PType) (qos split : Bool) (src dst : Addr) :
    encodePkt (s.withControl c) payload type qos split src dst = encodePkt s payload type qos split src dst := rfl
@[simp] theorem fragPkts_withControl (data : Buf) (type : PType) (qos : Bool) (src dst : Addr) :
    fragPkts (s.withControl c) data type qos src dst = fragPkts s data type qos src dst := rfl

/-! ## Outputs and asks -/

@[simp] theorem raise_withControl (k : Code) (info : List Nat) :
    raise k info (s.withControl c) = (raise k info s).withControl c := rfl
@[simp] theorem finish_withControl (op : Byte) (k : Code) (d : Data) :
    finish op k d (s.withControl c) = (finish op k d s).withControl c := rfl
@[simp] theorem setTracker_withControl (a : Addr) (t : Tracker) :
    setTracker a t (s.withControl c) = (setTracker a t s).withControl c := rfl

@[simp] theorem askPoll_withControl : askPoll (s.withControl c) = ((askPoll s).1, (askPoll s).2.withControl c) := by
  simp only [askPoll, State.withControl]
  split <;> rfl

@[simp] theorem askTransmit_withControl (w : Buf) :
    askTransmit w (s.withControl c) = ((askTransmit w s).1, (askTransmit w s).2.withControl c) := by
  simp only [askTransmit, State.withControl]
  split <;> rfl

@[simp] theorem askInitialize_withControl :
    askInitialize (s.withControl c) = ((askInitialize s).1, (askInitialize s).2.withControl c) := by
  simp only [askInitialize, State.withControl]
  split <;> rfl

@[simp] theorem askObserve_withControl (p : Buf) (q : Int) :
    askObserve p q (s.withControl c) = ((askObserve p q s).1, (askObserve p q s).2.withControl c) := by
  simp only [askObserve, State.withControl]
  split <;> rfl

@[simp] theorem rawDraw_withControl : rawDraw (s.withControl c) = ((rawDraw s).1, (rawDraw s).2.withControl c) := by
  simp only [rawDraw, State.withControl]
  split <;> rfl

/-! ## The queue and the trackers -/

@[simp] theorem enqueue_withControl (p : Buf) (dest : Addr) (prio : Prio) (droppable : Bool) :
    enqueue p dest prio droppable (s.withControl c) =
      ((enqueue p dest prio droppable s).1, (enqueue p dest prio droppable s).2.withControl c) := by
  simp only [enqueue, atomic, apply_ite Prod.fst, apply_ite Prod.snd, apply_ite release, apply_ite (State.withControl · c)]
  rfl

@[simp] theorem sendRoom_withControl (type : PType) (allowDrop : Bool) (k : Nat) :
    sendRoom type allowDrop k (s.withControl c) =
      ((sendRoom type allowDrop k s).1, (sendRoom type allowDrop k s).2.withControl c) := by
  simp only [sendRoom, atomic, apply_ite Prod.fst, apply_ite Prod.snd, apply_ite release, apply_ite (State.withControl · c)]
  rfl

theorem nextSendable_withControl (now : Ticks) :
    nextSendable now (s.withControl c) = ((nextSendable now s).1, (nextSendable now s).2.withControl c) := by
  simp only [nextSendable, atomic, withControl_tq, dispatch_eq]
  split <;> rfl

theorem markSent_withControl (p : Buf) (now : Ticks) :
    markSent p now (s.withControl c) = ((markSent p now s).1, (markSent p now s).2.withControl c) := by
  simp only [markSent, atomic, withControl_tq]
  split
  · rfl
  · split <;> rfl

theorem removeByKey_withControl (dest : Addr) (seq : Byte) :
    removeByKey dest seq (s.withControl c) = ((removeByKey dest seq s).1, (removeByKey dest seq s).2.withControl c) := by
  simp only [removeByKey, atomic, withControl_tq]
  split <;> rfl

theorem dropUnsent_withControl (p : Buf) :
    dropUnsent p (s.withControl c) = ((dropUnsent p s).1, (dropUnsent p s).2.withControl c) := by
  simp only [dropUnsent, atomic, withControl_tq]
  split <;> rfl

theorem cleanUp_withControl (now : Ticks) :
    cleanUp now (s.withControl c) = ((cleanUp now s).1, (cleanUp now s).2.withControl c) := by
  simp only [cleanUp_eq]
  rfl

theorem warnMissing_withControl (t : Tracker) (p : Buf) :
    warnMissing t p (s.withControl c) = (warnMissing t p s).withControl c := by
  simp only [warnMissing_eq]
  rfl

theorem warnRun_withControl (fs : List Buf) (p : Buf) (ty : PType) :
    warnRun fs p ty (s.withControl c) = (warnRun fs p ty s).withControl c := by
  simp only [warnRun_eq]
  rfl

theorem acceptNew_withControl (a : Addr) (t : Tracker) (p : Buf) :
    acceptNew a t p (s.withControl c) = ((acceptNew a t p s).1, (acceptNew a t p s).2.withControl c) := by
  change _ = Prod.map id (State.withControl · c) (acceptNew a t p s)
  cases h : t.frags <;>
    (simp only [acceptNew, h, setTracker_withControl, warnRun_withControl,
      apply_ite (Prod.map id (State.withControl · c))]
     rfl)

theorem acceptPkt_withControl (a : Addr) (p : Buf) :
    acceptPkt a p (s.withControl c) = ((acceptPkt a p s).1, (acceptPkt a p s).2.withControl c) := by
  simp only [acceptPkt, atomic, trackerAt_withControl, raise_withControl, warnMissing_withControl, acceptNew_withControl]
  split <;> rfl

/-! ## Sub-steps -/

theorem enterListen_withControl (now : Ticks) :
    enterListen now (s.withControl c) = ((enterListen now s).1.withControl c, (enterListen now s).2) := by
  have hlisten : (if (s.withControl c).fListen then s.withControl c
      else { emit .radioEnterPassiveListen (s.withControl c) with fListen := true }) =
      (if s.fListen then s else { emit .radioEnterPassiveListen s with fListen := true }).withControl c := by
    rw [apply_ite (State.withControl · c)]
    rfl
  simp only [enterListen, hlisten, rawDraw_withControl]
  rfl

theorem enterTransmit_withControl (now : Ticks) :
    enterTransmit now (s.withControl c) = ((enterTransmit now s).1.withControl c, (enterTransmit now s).2) := by
  change _ = Prod.map (State.withControl · c) id (enterTransmit now s)
  rw [enterTransmit, enterTransmit, apply_ite (Prod.map (State.withControl · c) id)]
  rfl

/-- The first part of a handler (R261). -/
theorem handlerOf_withControl (st : SchedState) (now : Ticks) :
    handlerOf st now (s.withControl c) = ((handlerOf st now s).1.withControl c, (handlerOf st now s).2) := by
  cases st with
  | init | listening | transmitting => rfl
  | enterListen => exact enterListen_withControl s c now
  | enterTransmit => exact enterTransmit_withControl s c now

theorem pollRadio_withControl :
    pollRadio (s.withControl c) = ((pollRadio s).1.withControl c, (pollRadio s).2) := by
  simp only [pollRadio, askPoll_withControl, linkKey_withControl]
  split
  · split <;> rfl
  all_goals rfl

theorem routeByType_withControl (known : Bool) (p : Buf) :
    routeByType known p (s.withControl c) = ((routeByType known p s).1.withControl c, (routeByType known p s).2) := by
  change _ = Prod.map (State.withControl · c) id (routeByType known p s)
  cases h : payloadOf p <;>
    (simp only [routeByType, h, apply_ite (Prod.map (State.withControl · c) id)]
     rfl)

theorem routePkt_withControl (p : Buf) :
    routePkt p (s.withControl c) = ((routePkt p s).1.withControl c, (routePkt p s).2) := by
  simp only [routePkt, checkPkt_withControl, forMe_withControl, withControl_rx, askObserve_withControl,
    routeByType_withControl]
  split
  · rfl
  · split <;> rfl

theorem deliverPkt_withControl (p : Buf) : deliverPkt p (s.withControl c) = (deliverPkt p s).withControl c := by
  simp only [deliverPkt, acceptPkt_withControl]
  split <;> rfl

theorem enqueueAck_withControl (p : Buf) : enqueueAck p (s.withControl c) = (enqueueAck p s).withControl c := by
  simp only [enqueueAck, withControl_params, encodePkt_withControl, localAddr_withControl, enqueue_withControl]
  split <;> rfl

theorem leaveListening_withControl (now : Ticks) :
    leaveListening now (s.withControl c) = (leaveListening now s).withControl c := by
  simp only [leaveListening_eq]
  rfl

theorem peekAndDecide_withControl (now : Ticks) :
    peekAndDecide now (s.withControl c) = ((peekAndDecide now s).1.withControl c, (peekAndDecide now s).2) := by
  have hpeek : peek now (s.withControl c) = ((peek now s).1, (peek now s).2.withControl c) := rfl
  simp only [peekAndDecide, hpeek, gapOk_withControl, quiet_withControl]
  split
  · rfl
  · split <;> rfl

theorem stopListening_withControl : stopListening (s.withControl c) = (stopListening s).withControl c := by
  rw [stopListening, stopListening, apply_ite (State.withControl · c)]
  rfl

theorem nextToSend_withControl (now : Ticks) :
    nextToSend now (s.withControl c) = ((nextToSend now s).1.withControl c, (nextToSend now s).2) := by
  simp only [nextToSend, nextSendable_withControl, linkKey_withControl]
  split
  · rfl
  · split <;> rfl

theorem transmitPkt_withControl (p w : Buf) (now : Ticks) :
    transmitPkt p w now (s.withControl c) = ((transmitPkt p w now s).1.withControl c, (transmitPkt p w now s).2) := by
  simp only [transmitPkt, askTransmit_withControl]
  split <;> rfl

theorem reinitRadio_withControl : reinitRadio (s.withControl c) = (reinitRadio s).withControl c := by
  simp only [reinitRadio, askInitialize_withControl]
  split <;> rfl

/-- A sub-step neither reads nor changes the control fields. -/
theorem microStep_withControl (m : Micro) :
    microStep m (s.withControl c) = ((microStep m s).1.withControl c, (microStep m s).2) := by
  cases m with
  | clean now => simp only [microStep, cleanUp_withControl]
  | handler now => exact handlerOf_withControl s c s.st now
  | poll => exact pollRadio_withControl s c
  | route p => exact routePkt_withControl s c p
  | ackp acked => simp only [microStep, withControl_rx, removeByKey_withControl]
  | accept p => simp only [microStep, deliverPkt_withControl]
  | ack p => simp only [microStep, enqueueAck_withControl]
  | leave now => simp only [microStep, leaveListening_withControl]
  | peek now => exact peekAndDecide_withControl s c now
  | stopListen => simp only [microStep, stopListening_withControl]
  | next now => exact nextToSend_withControl s c now
  | dropEntry p => simp only [microStep, dropUnsent_withControl]
  | transmit p w now => exact transmitPkt_withControl s c p w now
  | reinit => simp only [microStep, reinitRadio_withControl]
  | mark p now => simp only [microStep, markSent_withControl]
  | setSt st => rfl
  | finish => rfl

end WithControl

/-! ## The control fields are kept -/

/-- What commutes with writing the control fields keeps them. -/
theorem control_eq_of_commutes {f : State → State} (h : ∀ s c, f (s.withControl c) = (f s).withControl c) (s : State) :
    (f s).control = s.control := by
  change (f (s.withControl s.control)).control = s.control
  rw [h, control_withControl]

theorem snd_control_eq_of_commutes {α : Type} {f : State → α × State}
    (h : ∀ s c, f (s.withControl c) = ((f s).1, (f s).2.withControl c)) (s : State) : (f s).2.control = s.control :=
  control_eq_of_commutes (f := fun s => (f s).2) (fun s c => congrArg Prod.snd (h s c)) s

theorem enqueue_control (p : Buf) (dest : Addr) (prio : Prio) (droppable : Bool) (s : State) :
    (enqueue p dest prio droppable s).2.control = s.control :=
  snd_control_eq_of_commutes (fun s c => enqueue_withControl s c p dest prio droppable) s

theorem sendRoom_control (type : PType) (allowDrop : Bool) (k : Nat) (s : State) :
    (sendRoom type allowDrop k s).2.control = s.control :=
  snd_control_eq_of_commutes (fun s c => sendRoom_withControl s c type allowDrop k) s

theorem cfgWrite_control (r : CfgReg) (v : Nat) (s : State) : (cfgWrite r v s).2.control = s.control := by
  obtain ⟨-, h⟩ | ⟨-, -, -, h⟩ | ⟨-, -, -, h⟩ | ⟨-, -, -, h⟩ := cfgWrite_cases r v s <;> rw [h]
  · rfl
  · rfl
  · rfl
  · cases r <;> rfl

end Sys2Proof.Machine
end

section
/-! SUPPORT. Interrupted ticks (R87): how many sub-steps a list of sub-steps can make, and that a run which is cut and resumed
ends as the run to the end. Settles the obligation on them. -/

namespace Sys2Proof.Machine

/-! ## The length of a tick -/

/-- A bound on the sub-steps that a sub-step and those that follow from it make (R261 to R277). -/
@[simp] def Micro.cost : Micro → Nat
  | .handler _ => 6
  | .poll | .next _ => 4
  | .route _ | .peek _ | .transmit .. => 3
  | .clean _ | .ackp _ | .accept _ | .ack _ | .leave _ | .stopListen | .dropEntry _ | .reinit | .mark .. | .setSt _
  | .finish => 1

/-- The bound for a list of sub-steps. -/
def cost (ms : List Micro) : Nat := (ms.map Micro.cost).sum

@[simp] theorem cost_nil : cost [] = 0 := rfl
@[simp] theorem cost_cons (m : Micro) (ms : List Micro) : cost (m :: ms) = m.cost + cost ms := by simp [cost]
@[simp] theorem cost_append (ms ms' : List Micro) : cost (ms ++ ms') = cost ms + cost ms' := by simp [cost]

theorem cost_ackSteps (p : Buf) : cost (ackSteps p) ≤ 1 := by
  unfold ackSteps
  split <;> simp

theorem cost_handlerOf (st : SchedState) (now : Ticks) (s : State) : cost (handlerOf st now s).2 < 6 := by
  cases st with
  | init | listening | transmitting => simp [handlerOf]
  | enterListen => simp [handlerOf, enterListen]
  | enterTransmit =>
    simp only [handlerOf, enterTransmit]
    split <;> simp

theorem cost_routeByType (known : Bool) (p : Buf) (s : State) : cost (routeByType known p s).2 < 3 := by
  have hack := cost_ackSteps p
  unfold routeByType
  split_ifs
  · simp; omega
  · simp
  · split <;> simp <;> omega
  · simp; omega

theorem cost_routePkt (p : Buf) (s : State) : cost (routePkt p s).2 < 3 := by
  unfold routePkt
  split
  · simp
  · split
    · exact cost_routeByType _ _ _
    · simp

theorem cost_pollRadio (s : State) : cost (pollRadio s).2 < 4 := by
  unfold pollRadio
  dsimp only
  split
  · split <;> simp
  all_goals simp

/-- What follows from a sub-step costs less than the sub-step. -/
theorem cost_microStep (m : Micro) (s : State) : cost (microStep m s).2 < m.cost := by
  cases m with
  | handler now => exact cost_handlerOf s.st now s
  | poll => exact cost_pollRadio s
  | route p => exact cost_routePkt p s
  | peek now =>
    simp only [microStep, peekAndDecide]
    split_ifs <;> simp
  | next now =>
    simp only [microStep, nextToSend]
    split
    · simp
    · split <;> simp
  | transmit p w now =>
    simp only [microStep, transmitPkt]
    split <;> simp
  | clean | ackp | accept | ack | leave | stopListen | dropEntry | reinit | mark | setSt | finish => simp [microStep]

theorem cost_step_le (m : Micro) (ms : List Micro) (s : State) : cost ((microStep m s).2 ++ ms) + 1 ≤ cost (m :: ms) := by
  have := cost_microStep m s
  rw [cost_append, cost_cons]
  omega

/-! ## Runs of sub-steps -/

/-- A run neither reads nor changes the control fields, but that it says what is left of the tick. -/
theorem drive_withControl (n : Nat) (ms : List Micro) (s : State) (c : Control) :
    drive n ms (s.withControl c) = (drive n ms s).withControl { c with tick := (drive n ms s).tick } := by
  induction n generalizing ms s with
  | zero => cases ms <;> rfl
  | succ n ih =>
    cases ms with
    | nil => rfl
    | cons m ms => rw [drive_cons, microStep_withControl, ih, drive_cons]

theorem drive_control (n : Nat) (ms : List Micro) (s : State) :
    (drive n ms s).control = { s.control with tick := (drive n ms s).tick } :=
  congrArg State.control (drive_withControl n ms s s.control)

/-- What is left costs no more than what was to be made. -/
theorem cost_drive_tick_le (n : Nat) (ms : List Micro) (s : State) : cost (drive n ms s).tick ≤ cost ms := by
  induction n generalizing ms s with
  | zero => cases ms <;> exact le_rfl
  | succ n ih =>
    cases ms with
    | nil => exact le_rfl
    | cons m ms =>
      have := cost_step_le m ms s
      have := ih ((microStep m s).2 ++ ms) (microStep m s).1
      rw [drive_cons]
      omega

/-- Runs that may make as many sub-steps as the tick costs end alike, with nothing left. -/
theorem drive_eq_of_cost_le {n k : Nat} {ms : List Micro} (hn : cost ms ≤ n) (hk : cost ms ≤ k) (s : State) :
    drive n ms s = drive k ms s ∧ (drive n ms s).tick = [] := by
  induction n generalizing k ms s with
  | zero =>
    cases ms with
    | nil => simp
    | cons m ms =>
      have := cost_step_le m ms s
      omega
  | succ n ih =>
    cases ms with
    | nil => simp
    | cons m ms =>
      have hcost := cost_step_le m ms s
      obtain ⟨k, rfl⟩ : ∃ k', k = k' + 1 := ⟨k - 1, by omega⟩
      exact ih (by omega) (by omega) _

/-- A run of sub-steps to the end. -/
def runAll (ms : List Micro) (s : State) : State := drive (cost ms) ms s

theorem drive_eq_runAll {n : Nat} {ms : List Micro} (h : cost ms ≤ n) (s : State) : drive n ms s = runAll ms s :=
  (drive_eq_of_cost_le h le_rfl s).1

@[simp] theorem runAll_tick (ms : List Micro) (s : State) : (runAll ms s).tick = [] :=
  (drive_eq_of_cost_le le_rfl le_rfl s).2

theorem runAll_withControl (ms : List Micro) (s : State) (c : Control) :
    runAll ms (s.withControl c) = (runAll ms s).withControl { c with tick := [] } := by
  rw [runAll, drive_withControl]
  exact congrArg (fun ms' => (runAll ms s).withControl { c with tick := ms' }) (runAll_tick ms s)

theorem runAll_cons (m : Micro) (ms : List Micro) (s : State) :
    runAll (m :: ms) s = runAll ((microStep m s).2 ++ ms) (microStep m s).1 := by
  have hcost := cost_step_le m ms s
  obtain ⟨n, hn⟩ : ∃ n, cost (m :: ms) = n + 1 := ⟨cost (m :: ms) - 1, by omega⟩
  rw [runAll, hn, drive_cons]
  exact drive_eq_runAll (by omega) _

/-- What is left of a run goes on to the same end. -/
theorem runAll_drive (n : Nat) (ms : List Micro) (s : State) : runAll (drive n ms s).tick (drive n ms s) = runAll ms s := by
  induction n generalizing ms s with
  | zero =>
    cases ms with
    | nil => rfl
    | cons m ms =>
      have h := runAll_withControl (m :: ms) s
      exact (h { s.control with tick := m :: ms }).trans (h s.control).symm
  | succ n ih =>
    cases ms with
    | nil => rfl
    | cons m ms => rw [drive_cons, ih, runAll_cons]

/-! ## Interruptions -/

/-- The state without the script of interruptions and the counter of free choices after it (log entry 12). -/
def State.unscripted (s : State) : State := { s with preempt := [], choices := 0 }

/-- Taking an entry of the script changes only the script or the counter. -/
theorem takeCut_state (s : State) : ∃ p n, (takeCut s).2 = { s with preempt := p, choices := n } := by
  obtain ⟨c, r, -, h⟩ | ⟨-, h⟩ := takeCut_cases s <;> exact ⟨_, _, by rw [h]⟩

/-- Where a run to the end leads does not depend on the script, nor on what was noted of an earlier tick. -/
theorem runAll_unscripted (ms : List Micro) (s : State) (left : List Micro) (p : List (Option Nat)) (n : Nat) :
    (runAll ms { s with tick := left, preempt := p, choices := n }).unscripted = (runAll ms s).unscripted := by
  have h := fun c => congrArg State.unscripted (runAll_withControl ms s c)
  exact (h { s.control with tick := left, preempt := p, choices := n }).trans (h s.control).symm

/-- A tick in progress is at its end after finitely many resumptions, in the state its run to the end leads to. -/
theorem resumeTick_iterate (s : State) :
    ∃ k, (resumeTick^[k] s).tick = [] ∧ (resumeTick^[k] s).unscripted = (runAll s.tick s).unscripted := by
  induction hc : cost s.tick using Nat.strong_induction_on generalizing s with
  | _ c ih =>
    subst hc
    cases hms : s.tick with
    | nil => exact ⟨0, hms, by cases s; simp_all [runAll]⟩
    | cons m ms =>
      obtain ⟨p, n, hcut⟩ := takeCut_state { s with tick := [] }
      obtain ⟨l, hl⟩ := Nat.exists_eq_succ_of_ne_zero (runLength_pos (takeCut { s with tick := [] }).1).ne'
      have hresume : resumeTick s = drive (l + 1) (m :: ms) { s with tick := [], preempt := p, choices := n } := by
        rw [resumeTick, runTick, hl, hcut, hms]
      have hless : cost (resumeTick s).tick < cost s.tick := by
        rw [hresume, hms, drive_cons]
        exact (cost_drive_tick_le l _ _).trans_lt (cost_step_le m ms _)
      obtain ⟨k, hdone, hend⟩ := ih _ hless _ rfl
      refine ⟨k + 1, hdone, ?_⟩
      rw [Function.iterate_succ_apply, hend, hresume, runAll_drive, runAll_unscripted]

/-- A tick started under any script, and resumed, ends as the tick no script interrupts. -/
theorem runTick_ends_alike (ms : List Micro) (s : State) (hms : cost ms ≤ tickBound) :
    ∃ k, (resumeTick^[k] (runTick ms s)).tick = [] ∧
      (resumeTick^[k] (runTick ms s)).unscripted = (runTick ms { s with preempt := [none] }).unscripted := by
  obtain ⟨p, n, hcut⟩ := takeCut_state s
  obtain ⟨k, hdone, hend⟩ := resumeTick_iterate (runTick ms s)
  have huncut : runTick ms { s with preempt := [none] } = runAll ms { s with preempt := [] } := drive_eq_runAll hms _
  refine ⟨k, hdone, hend.trans ?_⟩
  rw [huncut, runTick, runAll_drive, hcut]
  exact (runAll_unscripted ms s s.tick p n).trans (runAll_unscripted ms s s.tick [] s.choices).symm

/-- Settles O8: what a run leaves goes on to the end of the whole run, and each resumption makes the rest cheaper. -/
theorem interruptedTickEndsAlike : Obligations.InterruptedTickEndsAlike := by
  intro now s hidle
  have hexec : ∀ p, exec (.lsTick now) { s with preempt := p } =
      .next (runTick [.clean now, .handler now, .finish] { s with preempt := p }) := fun p => by
    simp [exec, execLsTick, startTick, hidle]
  obtain ⟨k, hdone, hend⟩ := runTick_ends_alike [.clean now, .handler now, .finish] s (by simp [tickBound])
  exact ⟨k, _, _, hexec s.preempt, hexec [none], hdone, hend⟩

end Sys2Proof.Machine
end

section
/-! SUPPORT. `LS.SEND` (R279): what it can do, that an interrupted send ends as the uncut one, and what an accepted one queues.
Settles the obligation on it. -/

namespace Sys2Proof.Machine

/-! ## What `LS.SEND` can do -/

/-- `LS.SEND` is refused before any enqueue, or it is accepted and its enqueues start; the control fields decide neither, and
up to there they are kept. -/
theorem execLsSend_cases (data : Buf) (type : PType) (dest : Byte) (requireAck allowDrop : Bool) (s : State) :
    (∃ t : State, t.control = s.control ∧
      ∀ c, execLsSend data type dest requireAck allowDrop (s.withControl c) = .next (t.withControl c)) ∨
    ∃ (d : Addr) (ps : List Buf) (t : State), t.control = s.control ∧
      ∀ c, execLsSend data type dest requireAck allowDrop (s.withControl c) = .next (startSend d ps (t.withControl c)) := by
  have hroom := sendRoom_control type allowDrop (chunksOf s.params.maxPayload data).length s
  simp only [execLsSend, withControl_params, sendRoom_withControl, fragPkts_withControl, localAddr_withControl,
    finish_withControl]
  split
  · exact .inl ⟨finish opLsSend _ _ s, rfl, fun _ => rfl⟩
  · split
    · exact .inl ⟨finish opLsSend _ _ s, rfl, fun _ => rfl⟩
    · split
      · exact .inl ⟨finish opLsSend _ _ s, rfl, fun _ => rfl⟩
      · split
        · exact .inr ⟨_, _, _, hroom, fun _ => rfl⟩
        · exact .inl ⟨finish opLsSend _ _ (sendRoom type allowDrop _ s).2, hroom, fun _ => rfl⟩

/-! ## Interruptions (R87) -/

/-- One enqueue of a send (R279). -/
theorem runSend_cons (who : Nat) (dest : Addr) (n : Nat) (p : Buf) (ps : List Buf) (s : State) :
    runSend who dest (n + 1) (p :: ps) s =
      if (enqueue p dest .low false s).1 = .ok then runSend who dest n ps (enqueue p dest .low false s).2
      else finish opLsSend (enqueue p dest .low false s).1 (.bool false) (enqueue p dest .low false s).2 := rfl

/-- A send that is not interrupted neither reads nor changes the control fields. -/
theorem runSend_withControl (who : Nat) (dest : Addr) (ps : List Buf) (s : State) (c : Control) :
    runSend who dest ps.length ps (s.withControl c) = (runSend who dest ps.length ps s).withControl c := by
  induction ps generalizing s with
  | nil => rfl
  | cons p ps ih =>
    rw [List.length_cons, runSend_cons, runSend_cons, enqueue_withControl]
    split
    · exact ih _
    · rfl

theorem runSend_control (who : Nat) (dest : Addr) (ps : List Buf) (s : State) :
    (runSend who dest ps.length ps s).control = s.control :=
  control_eq_of_commutes (runSend_withControl who dest ps) s

/-- A run of a send ends as the uncut one, or it leaves the fragments it has not reached, from where the uncut one goes on. -/
theorem runSend_cases (who : Nat) (dest : Addr) (n : Nat) (ps : List Buf) (s : State) :
    runSend who dest n ps s = runSend who dest ps.length ps s ∨
    ∃ rest u, runSend who dest n ps s = { u with sends := u.sends ++ [⟨rest, dest, who⟩] } ∧ u.control = s.control ∧
      runSend who dest rest.length rest u = runSend who dest ps.length ps s ∧ 0 < rest.length ∧
      n + rest.length = ps.length := by
  induction ps generalizing n s with
  | nil => exact .inl (runSend_nil who dest n s)
  | cons p ps ih =>
    cases n with
    | zero => exact .inr ⟨p :: ps, s, rfl, rfl, rfl, by simp, by simp⟩
    | succ n =>
      rw [List.length_cons, runSend_cons, runSend_cons]
      split
      · obtain h | ⟨rest, u, h, hcontrol, hend, hpos, hlen⟩ := ih n (enqueue p dest .low false s).2
        · exact .inl h
        · exact .inr ⟨rest, u, h, hcontrol.trans (enqueue_control p dest .low false s), hend, hpos, by omega⟩
      · exact .inl rfl

/-- The script decides nothing about where an uncut send leads. -/
theorem runSend_unscripted (who : Nat) (dest : Addr) (ps : List Buf) (s : State) (p : List (Option Nat)) (n : Nat) :
    (runSend who dest ps.length ps { s with preempt := p, choices := n }).unscripted =
      (runSend who dest ps.length ps s).unscripted := by
  have h := fun c => congrArg State.unscripted (runSend_withControl who dest ps s c)
  exact (h { s.control with preempt := p, choices := n }).trans (h s.control).symm

/-- The youngest send in progress goes on with at least one enqueue, under what the script says. -/
theorem resumeSend_last (rest : List Buf) (dest : Addr) (who : Nat) (s : State) :
    ∃ l p n, (0 < l ∨ rest = []) ∧ resumeSend s.sends.length { s with sends := s.sends ++ [⟨rest, dest, who⟩] } =
      runSend who dest l rest { s with preempt := p, choices := n } := by
  obtain ⟨p, n, hcut⟩ := takeCut_state s
  refine ⟨(takeCut s).1.elim rest.length (· + 1), p, n, ?_, ?_⟩
  · cases (takeCut s).1 with
    | none => exact (Nat.eq_zero_or_pos rest.length).symm.imp_right List.eq_nil_of_length_eq_zero
    | some c => exact .inl (Nat.succ_pos c)
  · rw [← hcut]
    simp [resumeSend, resumeJob, List.eraseIdx_append_of_length_le]

/-- A run of a send under any script, resumed with nothing in between, ends as the uncut run. -/
theorem runSend_ends_alike (who : Nat) (dest : Addr) (n : Nat) (ps : List Buf) (s : State) :
    ∃ k, ((resumeSend s.sends.length)^[k] (runSend who dest n ps s)).sends = s.sends ∧
      ((resumeSend s.sends.length)^[k] (runSend who dest n ps s)).unscripted =
        (runSend who dest ps.length ps s).unscripted := by
  induction hm : ps.length - n using Nat.strong_induction_on generalizing n ps s with
  | _ m ih =>
    subst hm
    obtain h | ⟨rest, u, h, hcontrol, hend, hpos, hlen⟩ := runSend_cases who dest n ps s
    · exact ⟨0, (congrArg State.sends h).trans (congrArg Control.sends (runSend_control who dest ps s)), by
        rw [Function.iterate_zero_apply, h]⟩
    · have hsends : u.sends = s.sends := congrArg Control.sends hcontrol
      obtain ⟨l, p, c, hl, hresume⟩ := resumeSend_last rest dest who u
      have hless : rest.length - l < ps.length - n := by
        obtain hl | rfl := hl
        · omega
        · simp at hpos
      obtain ⟨k, hdone, halike⟩ := ih _ hless l rest { u with preempt := p, choices := c } rfl
      refine ⟨k + 1, ?_⟩
      rw [Function.iterate_succ_apply, h, ← hsends, hresume]
      exact ⟨hdone, halike.trans ((runSend_unscripted who dest rest u p c).trans (congrArg State.unscripted hend))⟩

/-- `LS.SEND` under any script, resumed with nothing in between, ends as the one no script interrupts. -/
theorem lsSend_ends_alike (data : Buf) (type : PType) (dest : Byte) (requireAck allowDrop : Bool) (s : State) :
    ∃ (k : Nat) (t u : State), execLsSend data type dest requireAck allowDrop s = .next t ∧
      execLsSend data type dest requireAck allowDrop { s with preempt := [none] } = .next u ∧
      ((resumeSend s.sends.length)^[k] t).sends = s.sends ∧
      ((resumeSend s.sends.length)^[k] t).unscripted = u.unscripted := by
  obtain ⟨t, hcontrol, h⟩ | ⟨d, ps, t, hcontrol, h⟩ := execLsSend_cases data type dest requireAck allowDrop s
  · exact ⟨0, _, _, h s.control, h { s.control with preempt := [none] }, rfl, rfl⟩
  · obtain ⟨p, n, hcut⟩ := takeCut_state t
    have hsends : t.sends = s.sends := congrArg Control.sends hcontrol
    have hsame : t.withControl s.control = t := by rw [← hcontrol, withControl_control]
    have huncut : t.withControl { s.control with preempt := [none] } = { t with preempt := [none] } := by
      rw [← hcontrol]
      rfl
    obtain ⟨k, hdone, halike⟩ := runSend_ends_alike t.issuer d ((takeCut t).1.getD ps.length) ps (takeCut t).2
    rw [hcut] at hdone halike
    refine ⟨k, _, _, h s.control, h { s.control with preempt := [none] }, ?_⟩
    rw [hsame, huncut, ← hsends, startSend, hcut]
    exact ⟨hdone, halike.trans ((runSend_unscripted _ d ps t p n).trans (runSend_unscripted _ d ps t [] t.choices).symm)⟩

/-! ## What an accepted send queues (R279) -/

/-- Padding fills a block at most (R117). -/
theorem padlenFor_le (keyEn : Bool) (l : Nat) : padlenFor keyEn l ≤ 15 := by
  unfold padlenFor
  split
  · have := Nat.mod_lt (Config.blk - (Config.hdrLen + l) % Config.blk) (by decide : 0 < Config.blk)
    simp only [Config.blk] at *
    omega
  · omega

/-- Every fragment is a packet an entry can hold (R38, R118, R159). -/
theorem fragPkts_length (s : State) (data : Buf) (type : PType) (qos : Bool) (src dst : Addr) :
    ∀ p ∈ fragPkts s data type qos src dst, 5 ≤ p.length ∧ p.length ≤ s.params.mtu := by
  intro p hp
  obtain ⟨i, hi, rfl⟩ := List.mem_mapIdx.1 hp
  have hchunk : (chunksOf s.params.maxPayload data)[i].length ≤ s.params.maxPayload := by simp [chunksOf]
  have hsome : 0 < s.params.maxPayload := by
    by_contra hzero
    simp [chunksOf, Nat.eq_zero_of_not_pos hzero] at hi
  have hpad := padlenFor_le s.cfgKeyEn (chunksOf s.params.maxPayload data)[i].length
  rw [encodePkt, if_neg (Nat.not_lt.2 hchunk)]
  have hlimit : s.params.maxPayload = s.params.mtu - 5 - 15 := rfl
  simp only [pktOrEmpty, buildPkt, packHdr, List.length_append, List.length_replicate, List.length_cons, List.length_nil]
  omega

theorem length_chunksOf (m : Nat) (data : Buf) : (chunksOf m data).length = (data.length + m - 1) / m := by
  simp [chunksOf]

theorem length_fragPkts (s : State) (data : Buf) (type : PType) (qos : Bool) (src dst : Addr) :
    (fragPkts s data type qos src dst).length = (data.length + s.params.maxPayload - 1) / s.params.maxPayload := by
  simp [fragPkts, length_chunksOf]

/-- A LOW entry goes to the tail (R192). -/
theorem insertEntry_low (e : Entry) (q : List Entry) (h : e.prio = .low) : insertEntry e q = q ++ [e] := by
  simpa using insertEntry_append e q [] (by simp [h, Prio.num]) (by simp)

/-- An entry as `LS.SEND` makes it: LOW, unnumbered, with the configured timeout and retry budget (R192, R279). -/
abbrev Entry.FreshLow (e : Entry) (dest : Addr) (s : State) : Prop :=
  e.dest = dest ∧ e.prio = .low ∧ e.sentCount = 0 ∧ e.timeout = s.cfgTimeout ∧ e.maxRetry = s.cfgMaxRetry ∧
    e.seqAssigned = false

/-- Where there is room for all of them, every fragment is queued, in order. -/
theorem runSend_of_room (who : Nat) (dest : Addr) (ps : List Buf) (s : State)
    (hlen : ∀ p ∈ ps, 5 ≤ p.length ∧ p.length ≤ s.params.mtu)
    (hroom : ∀ d ∈ s.params.qDepth, s.tq.length + ps.length ≤ d)
    (hlock : s.lock = .free) :
    ∃ es : List Entry, es.map (·.pkt) = ps ∧ (∀ e ∈ es, e.FreshLow dest s) ∧
      runSend who dest ps.length ps s =
        { s with
          tq := s.tq ++ es, free := s.free + es.length, lock := .free
          out := s.out ++ [.result opLsSend .ok (.bool true)] } := by
  induction ps generalizing s with
  | nil => exact ⟨[], rfl, nofun, by simp [← hlock, runSend, finish, emit]⟩
  | cons p ps ih =>
    obtain ⟨⟨hmin, hmax⟩, hrest⟩ := List.forall_mem_cons.1 hlen
    have hnotFull : ¬exceedsDepth s (s.tq.length + 1) = true := fun hfull => by
      obtain ⟨d, hd, hle⟩ := (full_iff s).1 hfull
      have := hroom d hd
      simp at this
      omega
    have henq := enqueue_of_room dest .low (droppable := false) hmax hmin (by simp) hnotFull
    rw [insertEntry_low _ _ rfl] at henq
    obtain ⟨es, hpkts, hfresh, hrun⟩ := ih
      (release { s with tq := s.tq ++ [newEntry p dest .low s], free := s.free + 1 }) hrest
      (fun d hd => by
        have := hroom d hd
        simp at this ⊢
        omega) rfl
    refine ⟨newEntry p dest .low s :: es, by simp [hpkts, newEntry], ?_, ?_⟩
    · exact List.forall_mem_cons.2 ⟨⟨rfl, rfl, rfl, rfl, rfl, rfl⟩, hfresh⟩
    · rw [List.length_cons, runSend_cons, henq, if_pos rfl, hrun]
      simp [release, Nat.add_assoc, Nat.add_comm 1]

/-- Legal operands, below cap and depth: `LS.SEND` starts its enqueues (R279, R324 (i)). -/
theorem execLsSend_accepted {data : Buf} {type : PType} {dest : Byte} {allowDrop : Bool} {s : State} (requireAck : Bool)
    (hdata : data ≠ []) (hdest : dest.toNat ≤ 15) (htype : type ∈ s.params.knownTypes)
    (hcap : ¬(allowDrop = true ∧ type ∉ s.params.exemptTypes ∧ s.params.qCap ≤ s.tq.length))
    (hroom : ∀ d ∈ s.params.qDepth, s.tq.length + (data.length + s.params.maxPayload - 1) / s.params.maxPayload ≤ d) :
    execLsSend data type dest requireAck allowDrop s =
      .next (startSend (dest.extractLsb' 0 4)
        (fragPkts s data type requireAck (s.cfgAddr.extractLsb' 0 4) (dest.extractLsb' 0 4)) (release s)) := by
  have hempty : ¬data.isEmpty = true := by simpa using hdata
  have hlegal : sendRoom type allowDrop (chunksOf s.params.maxPayload data).length s = (.ok, release s) := by
    obtain ⟨hcapped, -⟩ | ⟨-, hfull, -⟩ | ⟨-, -, h⟩ :=
      sendRoom_cases type allowDrop (chunksOf s.params.maxPayload data).length s
    · simp only [Bool.and_eq_true, decide_eq_true_eq, capReached, and_assoc] at hcapped
      exact absurd hcapped hcap
    · obtain ⟨d, hd, hlt⟩ := (exceedsDepth_iff s _).1 hfull
      rw [length_chunksOf] at hlt
      exact absurd (hroom d hd) (Nat.not_le.2 hlt)
    · exact h
  simp only [execLsSend, if_neg hempty, if_neg (Nat.not_lt.2 hdest), if_neg (not_not.2 htype), hlegal, if_true]
  rfl

/-- A resumed send whose next fragment finds the queue at its depth (R279, R386). -/
theorem resumeJob_of_full {j : SendJob} {p : Buf} {ps : List Buf} {s : State} (hj : j.rest = p :: ps) (hmin : 5 ≤ p.length)
    (hmax : p.length ≤ s.params.mtu) (hfull : ∃ d, s.params.qDepth = some d ∧ d ≤ s.tq.length) :
    resumeJob j s = { (takeCut s).2 with
      flt := s.flt ||| 0x02, lock := .free
      out := s.out ++ [.log .eQovf [s.tq.length], .result opLsSend .eQovf (.bool false)] } := by
  obtain ⟨q, c, hcut⟩ := takeCut_state s
  obtain ⟨l, hl⟩ : ∃ l, (takeCut s).1.elim j.rest.length (· + 1) = l + 1 := by
    cases (takeCut s).1 with
    | none => exact ⟨ps.length, by simp [hj]⟩
    | some c => exact ⟨c, rfl⟩
  have henq := enqueue_of_full (s := { s with preempt := q, choices := c }) j.dest .low (droppable := false) hmax hmin
    (by simp) ((full_iff _).2 hfull)
  rw [resumeJob, hl, hj, runSend_cons, hcut, henq, if_neg (by simp)]
  simp [release, raise, logRec, emit, finish, fltMask]

/-- Settles O50: the accepted send by induction on its fragments, the interrupted one by what its runs leave, and the overflow
of a resumed one. -/
theorem lsSendQueuesFragments : Obligations.LsSendQueuesFragments := by
  refine ⟨?_, lsSend_ends_alike, ?_⟩
  · intro data type dest requireAck allowDrop s cs hscript hdata hdest htype hcap hroom
    obtain ⟨es, hpkts, hfresh, hrun⟩ := runSend_of_room s.issuer (dest.extractLsb' 0 4)
      (fragPkts s data type requireAck (s.cfgAddr.extractLsb' 0 4) (dest.extractLsb' 0 4))
      { release s with preempt := cs } (fragPkts_length s data type requireAck _ _)
      (fun d hd => by simpa [length_fragPkts] using hroom d hd) rfl
    refine ⟨es, hpkts, hfresh, ?_⟩
    have hexec := execLsSend_accepted requireAck hdata hdest htype hcap hroom
    rw [startSend, takeCut_cons none cs (release s) hscript] at hexec
    exact hexec.trans (congrArg _ hrun)
  · intro s k d who p ps dest hjob hmin hmax hdepth hfull
    have h := resumeJob_of_full (j := ⟨p :: ps, dest, who⟩) (s := { s with sends := s.sends.eraseIdx k }) rfl hmin hmax
      ⟨d, hdepth, hfull⟩
    rw [resumeSend, hjob]
    refine h.trans ?_
    obtain ⟨c, r, hscript, hcut⟩ | ⟨hscript, hcut⟩ := takeCut_cases s
    · rw [hcut, takeCut_cons c r { s with sends := s.sends.eraseIdx k } hscript]
      rfl
    · rw [hcut]
      simp only [takeCut, hscript]
      rfl

end Sys2Proof.Machine
end

section
/-! SUPPORT. Operations by what they do to the control fields (R87): those that start sub-steps, reset, sends, and the others.
Settles the obligation on stops. -/

namespace Sys2Proof.Machine

/-! ## Operations and the control fields -/

/-- The operations that start sub-steps of the scheduler: the header rows, the state rows and `LS.TICK`. -/
abbrev StartsTick (i : Instr) : Prop := i.format = .hdr ∨ i.format = .state ∨ ∃ n, i = .lsTick n

/-- Every state row runs the handler of its state (R261). -/
theorem exec_state (i : Instr) (s : State) (h : i.format = .state) : ∃ st now, exec i s = runHandler st now s := by
  cases i with
  | stInit now | stListening now | stTransmitting now | stEnterListen now | stEnterTransmit now => exact ⟨_, now, rfl⟩
  | _ => exact absurd h (by simp [Instr.format])

/-- Operations that start sub-steps have done nothing else to the control fields before. -/
theorem exec_startsTick {i : Instr} (hi : StartsTick i) (s : State) :
    ∃ ms u, u.control = s.control ∧ exec i s = startTick ms u := by
  obtain hhdr | hstate | ⟨now, rfl⟩ := hi
  · exact ⟨_, s, rfl, (exec_hdr i s hhdr).2⟩
  · obtain ⟨st, now, h⟩ := exec_state i s hstate
    exact ⟨_, { s with st := st }, rfl, h⟩
  · exact ⟨_, s, rfl, rfl⟩

/-- An operation starts sub-steps, or it is a reset or a send, or it completes at once and keeps the control fields. -/
theorem exec_cases (i : Instr) (s : State) :
    StartsTick i ∨ i = .lsReset ∨
    (∃ data type dest requireAck allowDrop, i = .lsSend data type dest requireAck allowDrop) ∨
    ∃ t, exec i s = .next t ∧ t.control = s.control := by
  have hanswer : ∀ {r : Result}, (∃ op c d, r = .next (finish op c d s)) →
      ∃ t, r = .next t ∧ t.control = s.control := by
    rintro r ⟨op, c, d, rfl⟩
    exact ⟨_, rfl, rfl⟩
  have hatomic : ∀ {α : Type} {f : State → α × State},
      (∀ s c, f (s.withControl c) = ((f s).1, (f s).2.withControl c)) → (f s).2.control = s.control :=
    fun h => snd_control_eq_of_commutes h s
  cases i with
  | lsReset => exact .inr (.inl rfl)
  | lsSend data type dest requireAck allowDrop => exact .inr (.inr (.inl ⟨_, _, _, _, _, rfl⟩))
  | lsTick now => exact .inl (.inr (.inr ⟨now, rfl⟩))
  | tPing | tOta | tData | tAck | tId | hdrReserved5 | hdrReserved6 | hdrReserved7 => exact .inl (.inl rfl)
  | stInit | stListening | stTransmitting | stEnterListen | stEnterTransmit => exact .inl (.inr (.inl rfl))
  | pktCsum p => exact .inr (.inr (.inr (hanswer (execPktCsum_answers s p))))
  | pktCheck p => exact .inr (.inr (.inr (hanswer (execPktCheck_answers s p))))
  | pktFrag data type qos src dst => exact .inr (.inr (.inr (hanswer (execPktFrag_answers s data type qos src dst))))
  | cfgRd reg => exact .inr (.inr (.inr (hanswer (execCfgRd_answers s reg))))
  | pktEncode | pktToWire | pktFromWire | tqPeek => exact .inr (.inr (.inr ⟨_, rfl, rfl⟩))
  | tqNext now => exact .inr (.inr (.inr ⟨_, rfl, hatomic (nextSendable_withControl · · now)⟩))
  | tqMark p now => exact .inr (.inr (.inr ⟨_, rfl, hatomic (markSent_withControl · · p now)⟩))
  | tqRmkey dest seq => exact .inr (.inr (.inr ⟨_, rfl, hatomic (removeByKey_withControl · · dest seq)⟩))
  | ackp acked => exact .inr (.inr (.inr ⟨_, rfl, hatomic (removeByKey_withControl · · s.rx.sender acked)⟩))
  | tqClean now => exact .inr (.inr (.inr ⟨_, rfl, hatomic (cleanUp_withControl · · now)⟩))
  | rtAccept a p => exact .inr (.inr (.inr ⟨_, rfl, hatomic (acceptPkt_withControl · · a p)⟩))
  | cfgWr reg value => exact .inr (.inr (.inr ⟨_, rfl, cfgWrite_control reg value s⟩))
  | tqEnq p dest prio droppable => exact .inr (.inr (.inr ⟨_, rfl, enqueue_control p dest prio droppable s⟩))
  | prioLow p dest droppable | prioHigh p dest droppable | prioHighest p dest droppable =>
    exact .inr (.inr (.inr ⟨_, rfl, enqueue_control p dest _ droppable s⟩))

/-! ## Stops -/

/-- Sub-steps start only while no tick is in progress (log entry 14). -/
theorem startTick_of_idle {ms : List Micro} {s : State} (h : s.tick = []) : startTick ms s = .next (runTick ms s) := by
  simp [startTick, h]

theorem startTick_of_busy {ms : List Micro} {s : State} (h : s.tick ≠ []) : startTick ms s = .fault .tickOverlap := by
  simp [startTick, h]

/-- Reset runs only while nothing is in progress (R371, log entry 15). -/
theorem execLsReset_of_idle {s : State} (h : s.tick = [] ∧ s.sends = []) :
    execLsReset s = .next (finish opLsReset .ok .none (resetBlock s)) := by
  simp [execLsReset, h]

theorem execLsReset_of_busy {s : State} (h : ¬(s.tick = [] ∧ s.sends = [])) :
    execLsReset s = .refused .resetMidOperation := by
  simpa [execLsReset] using h

/-- A tick, a handler or an inbound procedure answers while no tick is in progress, and stops while one is. -/
theorem exec_startsTick_cases {i : Instr} (hi : StartsTick i) (s : State) :
    (s.tick = [] ∧ ∃ t, exec i s = .next t) ∨ (s.tick ≠ [] ∧ exec i s = .fault .tickOverlap) := by
  obtain ⟨ms, u, hu, h⟩ := exec_startsTick hi s
  have htick : u.tick = s.tick := congrArg Control.tick hu
  by_cases hidle : s.tick = []
  · exact .inl ⟨hidle, _, h.trans (startTick_of_idle (htick.trans hidle))⟩
  · exact .inr ⟨hidle, h.trans (startTick_of_busy (htick ▸ hidle))⟩

/-- A reset answers while nothing is in progress, and is refused while something is. -/
theorem exec_lsReset_cases (s : State) :
    ((s.tick = [] ∧ s.sends = []) ∧ ∃ t, exec .lsReset s = .next t) ∨
    (¬(s.tick = [] ∧ s.sends = []) ∧ exec .lsReset s = .refused .resetMidOperation) := by
  by_cases hidle : s.tick = [] ∧ s.sends = []
  · exact .inl ⟨hidle, _, execLsReset_of_idle hidle⟩
  · exact .inr ⟨hidle, execLsReset_of_busy hidle⟩

/-- Any other operation answers. -/
theorem exec_answers {i : Instr} (hi : ¬StartsTick i) (hreset : i ≠ .lsReset) (s : State) : ∃ t, exec i s = .next t := by
  obtain h | h | ⟨data, type, dest, requireAck, allowDrop, rfl⟩ | ⟨t, h, -⟩ := exec_cases i s
  · exact absurd h hi
  · exact absurd h hreset
  · obtain ⟨t, -, h⟩ | ⟨d, ps, t, -, h⟩ := execLsSend_cases data type dest requireAck allowDrop s <;>
      exact ⟨_, h s.control⟩
  · exact ⟨t, h⟩

/-- Settles O53: operations that start sub-steps stop inside a tick, reset stops inside an operation, and all others
answer. -/
theorem stopsOnlyMidOperation : Obligations.StopsOnlyMidOperation := by
  intro i s
  refine ⟨?_, fun hi => ?_, fun hstops => ?_⟩
  · rintro rfl
    obtain ⟨hidle, t, h⟩ | ⟨hbusy, h⟩ := exec_lsReset_cases s
    · simp [h, hidle]
    · simp [h, hbusy]
  · obtain ⟨hidle, t, h⟩ | ⟨hbusy, h⟩ := exec_startsTick_cases hi s
    · simp [h, hidle]
    · simp [h, hbusy]
  · have hnot : ¬∃ t, exec i s = .next t := by
      rintro ⟨t, h⟩
      simp [h, answersNext] at hstops
    by_cases hi : StartsTick i
    · obtain ⟨-, h⟩ | ⟨-, h⟩ := exec_startsTick_cases hi s
      · exact absurd h hnot
      · exact .inr ⟨h, hi⟩
    · by_cases hreset : i = .lsReset
      · subst hreset
        obtain ⟨-, h⟩ | ⟨-, h⟩ := exec_lsReset_cases s
        · exact absurd h hnot
        · exact .inl ⟨h, rfl⟩
      · exact absurd (exec_answers hi hreset s) hnot

end Sys2Proof.Machine
end

section
/-! SUPPORT. One step (R86, R87, R90): whose turn it is, what the port runs, and what a step keeps of the control fields.
Settles the obligations on the step. -/

namespace Sys2Proof.Machine

/-! ## Whose turn it is -/

/-- With nothing in progress the port moves, and the script is left. -/
theorem nextTurn_of_idle {s : State} (htick : s.tick = []) (hsends : s.sends = []) : nextTurn s = (.port, s) := by
  simp [nextTurn, idle, htick, hsends]

/-- With an operation in progress the script says who moves (R86). -/
theorem nextTurn_of_busy {s : State} {t : Turn} {ts : List Turn} (hbusy : ¬(s.tick = [] ∧ s.sends = []))
    (hturns : s.turns = t :: ts) : nextTurn s = (t, { s with turns := ts }) := by
  have hidle : ¬idle s = true := by simpa [idle] using hbusy
  rw [nextTurn, if_neg hidle, hturns]

/-- Taking a turn changes only the script of turns or the counter of free choices. -/
theorem nextTurn_state (s : State) : ∃ ts n, (nextTurn s).2 = { s with turns := ts, choices := n } := by
  unfold nextTurn
  split
  · exact ⟨s.turns, s.choices, rfl⟩
  · split
    · exact ⟨_, s.choices, rfl⟩
    · exact ⟨s.turns, _, rfl⟩

theorem step_of_port {s u : State} (h : nextTurn s = (.port, u)) : step s = portStep u := by simp [step, h]

theorem step_of_tick {s u : State} (h : nextTurn s = (.tick, u)) : step s = .next (resumeTick u) := by simp [step, h]

theorem step_of_send {s u : State} {k : Nat} (h : nextTurn s = (.send k, u)) : step s = .next (resumeSend k u) := by
  simp [step, h]

/-! ## What the port runs (R90) -/

/-- Frames of busy agents wait. -/
theorem portStep_of_waiting {s : State} (h : ∀ f ∈ s.port, busy s f.agent = true) : portStep s = .next s := by
  obtain ⟨hnone, -⟩ | ⟨before, f, after, -, hport, hfree, -⟩ := nextFrame_cases s
  · simp [portStep, hnone]
  · have := h f (by simp [hport])
    simp [hfree] at this

section PortStep

variable {s : State} {before after : List Frame} {f : Frame} (hport : s.port = before ++ f :: after)
  (hbefore : ∀ g ∈ before, busy s g.agent = true) (hfree : busy s f.agent = false)

include hport hbefore hfree

/-- The oldest frame of an agent that is not busy is run. -/
theorem portStep_of_decoded {i : Instr} (h : decode f.fmt f.bytes = .ok i) :
    portStep s = exec i (fetched f (before ++ after) s) := by
  simp [portStep, nextFrame_eq s before after f hport hfree hbefore, h]

/-- The oldest frame of an agent that is not busy is refused when it decodes to nothing. -/
theorem portStep_of_undecoded {e : DecodeError} (h : decode f.fmt f.bytes = .error e) :
    portStep s = .next (refuseFrame f (fetched f (before ++ after) s)) := by
  simp [portStep, nextFrame_eq s before after f hport hfree hbefore, h]

end PortStep

/-- With nothing in progress no frame is passed over. -/
theorem eq_nil_of_idle {s : State} {before : List Frame} (hbefore : ∀ g ∈ before, busy s g.agent = true)
    (htick : s.tick = []) (hsends : s.sends = []) : before = [] :=
  List.eq_nil_iff_forall_not_mem.2 fun g hg => by
    have hidle := busy_idle s g.agent htick hsends
    simp [hbefore g hg] at hidle

/-- Who has an operation that is not finished. -/
theorem busy_iff (s : State) (a : Nat) :
    busy s a = true ↔ s.tick ≠ [] ∧ a = s.tickIssuer ∨ ∃ j ∈ s.sends, a = j.issuer := by
  simp only [busy, Bool.or_eq_true, Bool.and_eq_true, Bool.not_eq_true', List.isEmpty_eq_false_iff, List.any_eq_true,
    beq_iff_eq, eq_comm (a := a)]

/-- A fetch, with the test for a tick in progress as an equation. -/
theorem fetched_eq (f : Frame) (rest : List Frame) (s : State) :
    fetched f rest s =
      { s with port := rest, issuer := f.agent, tickIssuer := if s.tick = [] then f.agent else s.tickIssuer } := by
  simp only [fetched, List.isEmpty_iff]

/-- Settles O5: the turn is the port's, and the frame is the one the port fetches. -/
theorem stepRunsDecodedInstruction : Obligations.StepRunsDecodedInstruction := by
  intro s before after f i hport hbefore hfree hdecode s1
  refine ⟨fun htick hsends => ⟨eq_nil_of_idle hbefore htick hsends, ?_⟩, fun ts hbusy hturns => ?_⟩
  · rw [step_of_port (nextTurn_of_idle htick hsends), portStep_of_decoded hport hbefore hfree hdecode, fetched_eq]
  · rw [step_of_port (nextTurn_of_busy hbusy hturns),
      portStep_of_decoded (s := { s with turns := ts }) hport hbefore hfree hdecode, fetched_eq]

/-- Settles O6: the turn is the port's, and the frame it fetches is refused. -/
theorem stepRefusesUndecodableFrame : Obligations.StepRefusesUndecodableFrame := by
  intro s before after f e hport hbefore hfree hdecode s1
  refine ⟨fun htick hsends => ?_, fun ts hbusy hturns => ?_⟩
  · rw [step_of_port (nextTurn_of_idle htick hsends), portStep_of_undecoded hport hbefore hfree hdecode, fetched_eq]
    rfl
  · rw [step_of_port (nextTurn_of_busy hbusy hturns),
      portStep_of_undecoded (s := { s with turns := ts }) hport hbefore hfree hdecode, fetched_eq]
    rfl

/-! ## What operations and steps keep of the control fields -/

/-- From `s` to `t` the port and the noted agents stay, and a send in progress is the issuer's, or of an agent that had
one. -/
structure Carries (s t : State) : Prop where
  port : t.port = s.port
  issuer : t.issuer = s.issuer
  tickIssuer : t.tickIssuer = s.tickIssuer
  sends : ∀ j ∈ t.sends, j.issuer = s.issuer ∨ ∃ j' ∈ s.sends, j'.issuer = j.issuer

/-- Of the control fields only what is in progress and what says where it is interrupted may be written. -/
theorem Carries.of_control {s t : State} {ms : List Micro} {js : List SendJob} {p : List (Option Nat)} {n : Nat}
    (h : t.control = { s.control with tick := ms, sends := js, preempt := p, choices := n })
    (hjs : ∀ j ∈ js, j.issuer = s.issuer ∨ ∃ j' ∈ s.sends, j'.issuer = j.issuer) : Carries s t where
  port := congrArg Control.port h
  issuer := congrArg Control.issuer h
  tickIssuer := congrArg Control.tickIssuer h
  sends := by
    have hsends : t.sends = js := congrArg Control.sends h
    rwa [hsends]

/-- A send of the same agent is in progress before. -/
theorem issuer_of_mem {s : State} {j : SendJob} (h : j ∈ s.sends) :
    j.issuer = s.issuer ∨ ∃ j' ∈ s.sends, j'.issuer = j.issuer := .inr ⟨j, h, rfl⟩

theorem Carries.of_control_eq {s t : State} (h : t.control = s.control) : Carries s t :=
  .of_control h fun _ => issuer_of_mem

theorem Carries.trans {s t u : State} (h : Carries s t) (h' : Carries t u) : Carries s u where
  port := h'.port.trans h.port
  issuer := h'.issuer.trans h.issuer
  tickIssuer := h'.tickIssuer.trans h.tickIssuer
  sends := fun j hj => by
    obtain hj | ⟨i, hi, hij⟩ := h'.sends j hj
    · exact .inl (hj.trans h.issuer)
    · exact hij ▸ h.sends i hi

theorem runTick_carries (ms : List Micro) (s : State) : Carries s (runTick ms s) := by
  obtain ⟨p, n, hcut⟩ := takeCut_state s
  have hrun := drive_control (runLength (takeCut s).1) ms (takeCut s).2
  rw [runTick]
  rw [hcut] at hrun ⊢
  exact .of_control hrun fun _ => issuer_of_mem

/-- A tick in progress that goes on; without one, none is in progress after it. -/
theorem resumeTick_carries (s : State) : Carries s (resumeTick s) ∧ (s.tick = [] → (resumeTick s).tick = []) := by
  obtain ⟨hport, hissuer, htickIssuer, hsends⟩ := runTick_carries s.tick { s with tick := [] }
  exact ⟨⟨hport, hissuer, htickIssuer, hsends⟩, fun htick => by simp [resumeTick, runTick, htick]⟩

/-- A run of a send adds at most what is left of it to the sends in progress. -/
theorem runSend_frame (who : Nat) (dest : Addr) (n : Nat) (ps : List Buf) (s : State) :
    ∃ js : List SendJob, (∀ j ∈ js, j.issuer = who) ∧
      (runSend who dest n ps s).control = { s.control with sends := s.sends ++ js } := by
  obtain h | ⟨rest, u, h, hcontrol, -⟩ := runSend_cases who dest n ps s
  · refine ⟨[], nofun, ?_⟩
    rw [h, runSend_control, List.append_nil]
    rfl
  · refine ⟨[⟨rest, dest, who⟩], by simp, ?_⟩
    rw [h]
    exact congrArg (fun c : Control => { c with sends := c.sends ++ [(⟨rest, dest, who⟩ : SendJob)] }) hcontrol

theorem startSend_carries (dest : Addr) (ps : List Buf) (s : State) : Carries s (startSend dest ps s) := by
  obtain ⟨p, n, hcut⟩ := takeCut_state s
  obtain ⟨js, hjs, hrun⟩ := runSend_frame s.issuer dest ((takeCut s).1.getD ps.length) ps (takeCut s).2
  rw [startSend]
  rw [hcut] at hrun ⊢
  refine .of_control hrun fun j hj => ?_
  obtain hj | hj := List.mem_append.1 hj
  · exact issuer_of_mem hj
  · exact .inl (hjs j hj)

/-- A send that goes on leaves the tick in progress, and what is left of it keeps its agent. -/
theorem resumeSend_carries (k : Nat) (s : State) : Carries s (resumeSend k s) ∧ (resumeSend k s).tick = s.tick := by
  unfold resumeSend
  split
  · next j hj =>
    obtain ⟨p, n, hcut⟩ := takeCut_state { s with sends := s.sends.eraseIdx k }
    obtain ⟨js, hjs, hrun⟩ := runSend_frame j.issuer j.dest
      ((takeCut { s with sends := s.sends.eraseIdx k }).1.elim j.rest.length (· + 1)) j.rest
      (takeCut { s with sends := s.sends.eraseIdx k }).2
    rw [resumeJob]
    rw [hcut] at hrun ⊢
    refine ⟨.of_control hrun fun i hi => ?_, congrArg Control.tick hrun⟩
    obtain hi | hi := List.mem_append.1 hi
    · exact issuer_of_mem (List.mem_of_mem_eraseIdx hi)
    · exact .inr ⟨j, List.mem_of_getElem? hj, (hjs i hi).symm⟩
  · exact ⟨.of_control rfl fun _ => issuer_of_mem, rfl⟩

/-- Operations keep the port and the noted agents, and a send they start is the issuer's. -/
theorem exec_carries {i : Instr} {s t : State} (h : exec i s = .next t) : Carries s t := by
  obtain hi | rfl | ⟨data, type, dest, requireAck, allowDrop, rfl⟩ | ⟨u, hu, hcontrol⟩ := exec_cases i s
  · obtain ⟨ms, u, hcontrol, hrun⟩ := exec_startsTick hi s
    by_cases hidle : u.tick = []
    · cases (hrun.trans (startTick_of_idle hidle)).symm.trans h
      exact (Carries.of_control_eq hcontrol).trans (runTick_carries ms u)
    · cases (hrun.trans (startTick_of_busy hidle)).symm.trans h
  · by_cases hidle : s.tick = [] ∧ s.sends = []
    · cases (execLsReset_of_idle hidle).symm.trans h
      exact .of_control rfl nofun
    · cases (execLsReset_of_busy hidle).symm.trans h
  · obtain ⟨u, -, hu⟩ | ⟨d, ps, u, -, hu⟩ := execLsSend_cases data type dest requireAck allowDrop s
    · cases (hu s.control).symm.trans h
      exact .of_control_eq rfl
    · cases (hu s.control).symm.trans h
      have hstart : Carries s (u.withControl s.control) := .of_control_eq rfl
      exact hstart.trans (startSend_carries d ps _)
  · cases hu.symm.trans h
    exact .of_control_eq hcontrol

/-- What a step can do once the turn is taken: run or refuse the frame the port fetched, wait, or go on with the tick or with
a send. -/
theorem step_next_cases {s t : State} (h : step s = .next t) :
    ∃ ts n, ∃ u : State, u = { s with turns := ts, choices := n } ∧
      ((∃ before f after, s.port = before ++ f :: after ∧ busy s f.agent = false ∧
        (∀ g ∈ before, busy s g.agent = true) ∧ Carries (fetched f (before ++ after) u) t) ∨
      t = u ∨ t = resumeTick u ∨ ∃ k, t = resumeSend k u) := by
  obtain ⟨ts, n, hu⟩ := nextTurn_state s
  refine ⟨ts, n, _, rfl, ?_⟩
  cases hturn : (nextTurn s).1 with
  | tick =>
    cases (step_of_tick (Prod.ext hturn hu)).symm.trans h
    exact .inr (.inr (.inl rfl))
  | send k =>
    cases (step_of_send (Prod.ext hturn hu)).symm.trans h
    exact .inr (.inr (.inr ⟨k, rfl⟩))
  | port =>
    rw [step_of_port (Prod.ext hturn hu)] at h
    obtain ⟨-, hwait⟩ | ⟨before, f, after, -, hport, hfree, hbefore⟩ :=
      nextFrame_cases { s with turns := ts, choices := n }
    · cases (portStep_of_waiting hwait).symm.trans h
      exact .inr (.inl rfl)
    · refine .inl ⟨before, f, after, hport, hfree, hbefore, ?_⟩
      cases hdecode : decode f.fmt f.bytes with
      | ok i => exact exec_carries ((portStep_of_decoded hport hbefore hfree hdecode).symm.trans h)
      | error e =>
        cases (portStep_of_undecoded hport hbefore hfree hdecode).symm.trans h
        exact .of_control_eq rfl

/-- Settles O7: the script gives the turn, frames of busy agents wait, and whatever a step runs carries the agents on. -/
theorem stepFollowsTurns : Obligations.StepFollowsTurns := by
  refine ⟨fun s htick hsends hport => ?_, fun s ts hbusy hturns => ?_, fun s k ts hbusy hturns => ?_,
    fun s ts hbusy hturns hwait => ?_, fun s t hstep => ?_⟩
  · rw [step_of_port (nextTurn_of_idle htick hsends)]
    exact portStep_of_waiting (by simp [hport])
  · exact step_of_tick (nextTurn_of_busy hbusy hturns)
  · exact step_of_send (nextTurn_of_busy hbusy hturns)
  · rw [step_of_port (nextTurn_of_busy hbusy hturns)]
    exact portStep_of_waiting fun f hf => (busy_iff _ _).2 (hwait f hf)
  · obtain ⟨ts, n, u, rfl, ⟨before, f, after, hport, hfree, hbefore, hcarries⟩ | rfl | rfl | ⟨k, rfl⟩⟩ :=
      step_next_cases hstep
    · obtain ⟨htport, hissuer, htickIssuer, hsends⟩ := hcarries
      rw [fetched_eq] at htport hissuer htickIssuer hsends
      refine ⟨.inr ⟨before, after, f, hport, htport, hissuer, hfree, fun g hg hagent => ?_⟩, fun htick => ?_,
        fun htick _ => ?_, ?_⟩
      · simp [← hagent, hbefore g hg] at hfree
      · exact htickIssuer.trans (if_neg htick)
      · exact (htickIssuer.trans (if_pos htick)).trans hissuer.symm
      · rw [hissuer]
        exact hsends
    · exact ⟨.inl rfl, fun _ => rfl, fun htick hnot => absurd htick hnot, fun _ => issuer_of_mem⟩
    · obtain ⟨⟨htport, hissuer, htickIssuer, hsends⟩, hidle⟩ :=
        resumeTick_carries { s with turns := ts, choices := n }
      exact ⟨.inl htport, fun _ => htickIssuer, fun htick hnot => absurd (hidle htick) hnot,
        by rw [hissuer]; exact hsends⟩
    · obtain ⟨⟨htport, hissuer, htickIssuer, hsends⟩, htick⟩ :=
        resumeSend_carries k { s with turns := ts, choices := n }
      exact ⟨.inl htport, fun _ => htickIssuer, fun hidle hnot => absurd (htick.trans hidle) hnot,
        by rw [hissuer]; exact hsends⟩

end Sys2Proof.Machine
end

section
/-! SUPPORT. What each operand reader takes: it answers a value exactly when the bytes begin with what the writer of that
operand gives for the value (R124; the serialisation is log entry 1). -/

namespace Sys2Proof

open Sys2Proof.Machine

/-- Two readers in a row answer a value exactly when the first answers some value from which the second answers it. -/
theorem bind_eq_ok_iff {α β : Type} {x : Except DecodeError α} {f : α → Except DecodeError β} {b : β} :
    (x >>= f) = .ok b ↔ ∃ a, x = .ok a ∧ f a = .ok b := by
  cases x with
  | error e => simp [bind, Except.bind]
  | ok a => simp [bind, Except.bind]

section Readers

variable {bs r : List Byte}

/-- One byte. -/
theorem getByte_eq_ok_iff {b : Byte} : getByte bs = .ok (b, r) ↔ bs = b :: r := by
  cases bs <;> simp [getByte]

/-- A number of at most 8 bits: a wider byte is refused, not truncated (R112). -/
theorem getBits_eq_ok_iff {n : Nat} (hn : n ≤ 8) {v : BitVec n} : getBits n bs = .ok (v, r) ↔ bs = putBits n v ++ r := by
  refine ⟨fun h => ?_, fun h => by rw [h, getBits_putBits n hn]⟩
  cases bs with
  | nil => simp [getBits, getByte] at h
  | cons b t =>
    by_cases hb : b.toNat < 2 ^ n
    · obtain ⟨rfl, rfl⟩ : BitVec.ofNat n b.toNat = v ∧ t = r := by simpa [getBits, hb] using h
      simp [putBits, Nat.mod_eq_of_lt hb]
    · simp [getBits, hb] at h

/-- A bit is written as the 1-bit number it is. -/
theorem putBool_beq_one (v : BitVec 1) : putBool (v == 1) = putBits 1 v := by revert v; decide

/-- Every 3-bit number is the number of its register (R37). -/
theorem num_cfgRegOfNum (n : BitVec 3) : (cfgRegOfNum n).num = n := by revert n; decide

/-- A bit. -/
theorem getBool_eq_ok_iff {b : Bool} : getBool bs = .ok (b, r) ↔ bs = putBool b ++ r := by
  refine ⟨fun h => ?_, fun h => by rw [h, getBool_putBool]⟩
  cases hbits : getBits 1 bs with
  | error e => simp [getBool, hbits] at h
  | ok x =>
    obtain ⟨v, t⟩ := x
    obtain ⟨rfl, rfl⟩ : (v == 1) = b ∧ t = r := by simpa [getBool, hbits] using h
    rw [(getBits_eq_ok_iff (by decide)).1 hbits, putBool_beq_one]

/-- A little-endian number of `n` bytes. -/
theorem getNum_eq_ok_iff {n v : Nat} : getNum n bs = .ok (v, r) ↔ v < 256 ^ n ∧ bs = putNum n v ++ r := by
  refine ⟨fun h => ?_, fun ⟨hv, h⟩ => by rw [h, getNum_putNum n v hv]⟩
  induction n generalizing bs v with
  | zero =>
    obtain ⟨rfl, rfl⟩ : 0 = v ∧ bs = r := by simpa [getNum] using h
    simp [putNum]
  | succ n ih =>
    cases bs with
    | nil => simp [getNum, getByte] at h
    | cons b t =>
      cases hnum : getNum n t with
      | error e => simp [getNum, hnum] at h
      | ok x =>
        obtain ⟨w, t'⟩ := x
        obtain ⟨rfl, rfl⟩ : b.toNat + 256 * w = v ∧ t' = r := by simpa [getNum, hnum] using h
        obtain ⟨hw, rfl⟩ := ih hnum
        have hb := b.isLt
        have hdiv : (b.toNat + 256 * w) / 256 = w := by omega
        have hlow : BitVec.ofNat 8 (b.toNat + 256 * w) = b := by
          apply BitVec.eq_of_toNat_eq
          rw [BitVec.toNat_ofNat]
          omega
        exact ⟨by rw [pow_succ]; omega, by simp [putNum, hdiv, hlow]⟩

/-- A time. -/
theorem getTicks_eq_ok_iff {t : Ticks} : getTicks bs = .ok (t, r) ↔ bs = putTicks t ++ r := by
  refine ⟨fun h => ?_, fun h => by rw [h, getTicks_putTicks]⟩
  cases hnum : getNum 4 bs with
  | error e => simp [getTicks, hnum] at h
  | ok x =>
    obtain ⟨v, u⟩ := x
    obtain ⟨rfl, rfl⟩ : BitVec.ofNat 32 v = t ∧ u = r := by simpa [getTicks, hnum] using h
    obtain ⟨hv, rfl⟩ := getNum_eq_ok_iff.1 hnum
    rw [putTicks, BitVec.toNat_ofNat, Nat.mod_eq_of_lt (by simpa using hv)]

/-- A buffer. -/
theorem getBuf_eq_ok_iff {p : Buf} : getBuf bs = .ok (p, r) ↔ bs = putBuf p ++ r := by
  refine ⟨fun h => ?_, fun h => by rw [h, getBuf_putBuf]⟩
  induction bs using getBuf.induct generalizing p with
  | case1 => simp [getBuf] at h
  | case2 =>
    obtain ⟨rfl, rfl⟩ : [] = p ∧ [] = r := by simpa [getBuf] using h
    rfl
  | case3 => simp [getBuf] at h
  | case4 m h0 h1 => simp only [getBuf, if_neg h0, if_neg h1, reduceCtorEq] at h
  | case5 b t =>
    obtain ⟨rfl, rfl⟩ : [] = p ∧ b :: t = r := by simpa [getBuf] using h
    rfl
  | case6 b t e hget => simp [getBuf, hget] at h
  | case7 b t x t' hget _ ih =>
    obtain ⟨rfl, rfl⟩ : b :: x = p ∧ t' = r := by simpa [getBuf, hget] using h
    rw [ih hget]
    rfl
  | case8 m b t h0 h1 => simp only [getBuf, if_neg h0, if_neg h1, reduceCtorEq] at h

/-- An optional buffer. -/
theorem getKey_eq_ok_iff {k : Option Buf} : getKey bs = .ok (k, r) ↔ bs = putKey k ++ r := by
  refine ⟨fun h => ?_, fun h => by rw [h, getKey_putKey]⟩
  cases bs with
  | nil => simp [getKey, getByte] at h
  | cons m t =>
    rcases eq_or_ne m 0 with rfl | h0
    · obtain ⟨rfl, rfl⟩ : none = k ∧ t = r := by simpa [getKey] using h
      rfl
    rcases eq_or_ne m 1 with rfl | h1
    · cases hbuf : getBuf t with
      | error e => simp [getKey, hbuf] at h
      | ok x =>
        obtain ⟨p, t'⟩ := x
        obtain ⟨rfl, rfl⟩ : some p = k ∧ t' = r := by simpa [getKey, hbuf] using h
        rw [getBuf_eq_ok_iff.1 hbuf]
        rfl
    · simp only [getKey, getByte_cons, if_neg h0, if_neg h1, reduceCtorEq] at h

/-- The codes of priorities (R123). -/
theorem prioOfCode_eq_ok_iff {b : Byte} {p : Prio} : prioOfCode b = .ok p ↔ b = codeOfPrio p := by
  revert b; cases p <;> decide

/-- The codes of states (R129). -/
theorem stateOfCode_eq_ok_iff {b : Byte} {st : SchedState} : stateOfCode b = .ok st ↔ b = codeOfState st := by
  revert b; cases st <;> decide

/-- A priority operand. -/
theorem getPrio_eq_ok_iff {p : Prio} : getPrio bs = .ok (p, r) ↔ bs = codeOfPrio p :: r := by
  refine ⟨fun h => ?_, fun h => by rw [h, getPrio_codeOfPrio]⟩
  cases bs with
  | nil => simp [getPrio, getByte] at h
  | cons b t =>
    cases hcode : prioOfCode b with
    | error e => simp [getPrio, hcode] at h
    | ok q =>
      obtain ⟨rfl, rfl⟩ : q = p ∧ t = r := by simpa [getPrio, hcode] using h
      rw [prioOfCode_eq_ok_iff.1 hcode]

/-- A register number. -/
theorem getReg_eq_ok_iff {g : CfgReg} : getReg bs = .ok (g, r) ↔ bs = putBits 3 g.num ++ r := by
  refine ⟨fun h => ?_, fun h => by rw [h, getReg_putBits]⟩
  cases hbits : getBits 3 bs with
  | error e => simp [getReg, hbits] at h
  | ok x =>
    obtain ⟨n, t⟩ := x
    obtain ⟨rfl, rfl⟩ : cfgRegOfNum n = g ∧ t = r := by simpa [getReg, hbits] using h
    rw [(getBits_eq_ok_iff (by decide)).1 hbits, num_cfgRegOfNum]

end Readers

end Sys2Proof
end

section
/-! SUPPORT. The obligations on encodings (R111 to R114, R122 to R125, R129): per format, what an encoded operation decodes
to and what a decodable frame begins with. -/

namespace Sys2Proof

open Sys2Proof.Machine

/-- The frame stands for the operation in the format: its bytes begin with the operation's encoding. -/
def Spells (fmt : Format) (bs : List Byte) (i : Instr) : Prop :=
  i.format = fmt ∧ i.wellFormed = true ∧ ∃ rest, bs = encode i ++ rest

/-! ## Headers (R111 to R114) -/

/-- A buffer of at least five bytes is its packed header fields and what follows them (R112, R113). -/
theorem packHdr_unpackHdr (p : Buf) (h : 5 ≤ p.length) :
    packHdr (unpackHdr p) (typeOf p) ++ p.drop Config.hdrLen = p := by
  obtain ⟨b0, b1, b2, b3, b4, rest, rfl⟩ : ∃ b0 b1 b2 b3 b4 rest, p = b0 :: b1 :: b2 :: b3 :: b4 :: rest := by
    match p, h with
    | b0 :: b1 :: b2 :: b3 :: b4 :: rest, _ => exact ⟨b0, b1, b2, b3, b4, rest, rfl⟩
  have hhdr : unpackHdr (b0 :: b1 :: b2 :: b3 :: b4 :: rest) =
      ⟨b0.extractLsb' 5 3, b0.getLsbD 4, b0.getLsbD 3, b1, b2.extractLsb' 4 4, b2.extractLsb' 0 4, b3, b4⟩ := rfl
  have htype : typeOf (b0 :: b1 :: b2 :: b3 :: b4 :: rest) = b0.extractLsb' 0 3 := rfl
  rw [hhdr, htype, packHdr, ctrlByte_of_fields, addrByte_of_fields]
  rfl

/-- Unpacking a packed header gives its fields back, whatever follows it (R112, R113). -/
theorem unpackHdr_packHdr (h : Hdr) (t : PType) (body : Buf) : unpackHdr (packHdr h t ++ body) = h := by
  obtain ⟨-, hversion, hqos, hsplit, hsrc, hdst, hpadlen, hseq⟩ := packHdr_views h t body
  have hcsum : csumOf (packHdr h t ++ body) = h.csum := rfl
  simp only [unpackHdr, hversion, hqos, hsplit, hsrc, hdst, hpadlen, hseq, hcsum]

/-- A packet with a packed header decodes to the header row of its type. -/
theorem decodeHdr_packHdr (h : Hdr) (t : PType) (body : Buf) :
    decodeHdr (packHdr h t ++ body) = .ok (instrOfType t h body) := by
  obtain ⟨htype, -⟩ := packHdr_views h t body
  have hlen : ¬(packHdr h t ++ body).length < Config.hdrLen := by simp [packHdr, Config.hdrLen]
  rw [decodeHdr, if_neg hlen, htype, unpackHdr_packHdr]
  rfl

/-- A buffer of at least five bytes decodes to the header row of its fields, and only such a buffer does. -/
theorem decodeHdr_eq_ok_iff (p : Buf) (i : Instr) :
    decodeHdr p = .ok i ↔ 5 ≤ p.length ∧ instrOfType (typeOf p) (unpackHdr p) (p.drop Config.hdrLen) = i := by
  by_cases h : p.length < Config.hdrLen
  · have : ¬5 ≤ p.length := Nat.not_le.2 h
    simp [decodeHdr, h, this]
  · have : 5 ≤ p.length := Nat.not_lt.1 h
    simp [decodeHdr, h, this]

/-- The rows of the types are header rows, which the port carries with any operands. -/
theorem instrOfType_format (t : PType) (h : Hdr) (body : Buf) :
    (instrOfType t h body).format = .hdr ∧ (instrOfType t h body).wellFormed = true := by
  unfold instrOfType
  split_ifs <;> exact ⟨rfl, rfl⟩

/-- A decodable packet is the encoding of its header row. -/
theorem decodeHdr_spells {p : Buf} {i : Instr} (h : decodeHdr p = .ok i) : Spells .hdr p i ∧ encode i = p := by
  obtain ⟨hlen, rfl⟩ := (decodeHdr_eq_ok_iff p i).1 h
  obtain ⟨hfmt, hwf⟩ := instrOfType_format (typeOf p) (unpackHdr p) (p.drop Config.hdrLen)
  have henc := (encode_instrOfType (typeOf p) (unpackHdr p) (p.drop Config.hdrLen)).trans (packHdr_unpackHdr p hlen)
  exact ⟨⟨hfmt, hwf, [], by rw [henc, List.append_nil]⟩, henc⟩

/-- Settles O3: unpacking inverts packing, and packing the unpacked fields gives the buffer back. -/
theorem headerBitsSurvive : Obligations.HeaderBitsSurvive := by
  refine ⟨fun h t body => ⟨unpackHdr_packHdr h t body, (packHdr_views h t body).1⟩, fun p hp => ?_⟩
  have hdecode := (decodeHdr_eq_ok_iff p _).2 ⟨hp, rfl⟩
  exact ⟨_, hdecode, (decodeHdr_spells hdecode).2⟩

/-! ## State and priority codes (R123, R129) -/

/-- The row of a state is encoded as its code and the time. -/
theorem encode_instrOfState (st : SchedState) (now : Ticks) :
    encode (instrOfState st now) = codeOfState st :: putTicks now := by cases st <;> rfl

/-- The row of a priority is encoded as its code and the other operands. -/
theorem encode_instrOfPrio (prio : Prio) (p : Buf) (dest : Addr) (droppable : Bool) :
    encode (instrOfPrio prio p dest droppable) =
      codeOfPrio prio :: (putBuf p ++ putBits 4 dest ++ putBool droppable) := by cases prio <;> rfl

/-- An encoded state row decodes to itself. -/
theorem decodeState_encode (st : SchedState) (now : Ticks) :
    decodeState (encode (instrOfState st now)) = .ok (instrOfState st now) := by
  have hcode : stateOfCode (codeOfState st) = .ok st := stateOfCode_eq_ok_iff.2 rfl
  simp [encode_instrOfState, decodeState, hcode, bind, Except.bind, pure, Except.pure]

/-- An encoded priority row decodes to itself. -/
theorem decodePrio_encode (prio : Prio) (p : Buf) (dest : Addr) (droppable : Bool) :
    decodePrio (encode (instrOfPrio prio p dest droppable)) = .ok (instrOfPrio prio p dest droppable) := by
  simp [encode_instrOfPrio, decodePrio, bind, Except.bind, pure, Except.pure]

/-- A decodable state frame is a state's code, a time, and bytes nobody reads. -/
theorem decodeState_spells {bs : List Byte} {i : Instr} (h : decodeState bs = .ok i) : Spells .state bs i := by
  simp only [decodeState, bind_eq_ok_iff, pure, Except.pure, Except.ok.injEq, Prod.exists, getByte_eq_ok_iff,
    stateOfCode_eq_ok_iff, getTicks_eq_ok_iff] at h
  obtain ⟨_, _, rfl, st, rfl, now, rest, rfl, rfl⟩ := h
  exact ⟨by cases st <;> rfl, by cases st <;> rfl, rest, by rw [encode_instrOfState]; rfl⟩

/-- A decodable priority frame is a priority's code, the other operands, and bytes nobody reads. -/
theorem decodePrio_spells {bs : List Byte} {i : Instr} (h : decodePrio bs = .ok i) : Spells .prio bs i := by
  simp only [decodePrio, bind_eq_ok_iff, pure, Except.pure, Except.ok.injEq, Prod.exists, getPrio_eq_ok_iff,
    getBuf_eq_ok_iff, getBits_eq_ok_iff, getBool_eq_ok_iff, Nat.reduceLeDiff] at h
  obtain ⟨prio, _, rfl, p, _, rfl, dest, _, rfl, droppable, rest, rfl, rfl⟩ := h
  exact ⟨by cases prio <;> rfl, by cases prio <;> rfl, rest, by simp [encode_instrOfPrio]⟩

/-! ## Commands (R124) -/

/-- A byte outside the table is no opcode (R125 (e)). -/
theorem decodeOperands_of_notMem {op : Byte} (h : op ∉ opcodes) (bs : List Byte) :
    decodeOperands op bs = .error .unknownOpcode := by
  simp only [opcodes, List.mem_cons, List.not_mem_nil, or_false, not_or] at h
  simp only [decodeOperands, h, if_false]

/-- An encoded command decodes to itself: its opcode selects its row, and each operand is read as it was written. -/
theorem decodeCmd_encode {i : Instr} (hfmt : i.format = .cmd) (hwf : i.wellFormed = true) :
    decodeCmd (encode i) = .ok i := by
  cases i with
  | cfgWr reg v =>
    have hvalue : getNum 32 (putNum 32 v) = .ok (v, []) :=
      getNum_eq_ok_iff.2 ⟨by simpa [Instr.wellFormed] using hwf, (List.append_nil _).symm⟩
    simp +decide [encode, decodeCmd, decodeOperands, bind, Except.bind, pure, Except.pure, hvalue]
  | tPing | tOta | tData | tAck | tId | hdrReserved5 | hdrReserved6 | hdrReserved7 | ackp | stInit | stListening
  | stTransmitting | stEnterListen | stEnterTransmit | prioLow | prioHigh | prioHighest => simp [Instr.format] at hfmt
  | _ => simp +decide [encode, decodeCmd, decodeOperands, bind, Except.bind, pure, Except.pure]

/-- A decodable command is an opcode of the table, its operands, and bytes nobody reads. -/
theorem decodeOperands_spells {op : Byte} {bs : List Byte} {i : Instr} (h : decodeOperands op bs = .ok i) :
    Spells .cmd (op :: bs) i := by
  by_cases hop : op ∈ opcodes
  · simp only [opcodes, List.mem_cons, List.not_mem_nil, or_false] at hop
    obtain rfl | rfl | rfl | rfl | rfl | rfl | rfl | rfl | rfl | rfl | rfl | rfl | rfl | rfl | rfl | rfl | rfl | rfl := hop
    all_goals
      simp +decide only [decodeOperands, if_true, if_false, bind_eq_ok_iff, pure, Except.pure, Except.ok.injEq, Prod.exists,
        getByte_eq_ok_iff, getBits_eq_ok_iff, getBool_eq_ok_iff, getTicks_eq_ok_iff, getBuf_eq_ok_iff, getKey_eq_ok_iff,
        getPrio_eq_ok_iff, getReg_eq_ok_iff, getNum_eq_ok_iff, Nat.reduceLeDiff] at h
    -- One case per opcode, in the order of `opcodes`: `h` says how the bytes after it begin.
    · obtain ⟨payload, _, rfl, type, _, rfl, qos, _, rfl, split, _, rfl, src, _, rfl, dst, rest, rfl, rfl⟩ := h
      exact ⟨rfl, rfl, rest, by simp [encode]⟩
    · obtain ⟨p, rest, rfl, rfl⟩ := h
      exact ⟨rfl, rfl, rest, rfl⟩
    · obtain ⟨p, rest, rfl, rfl⟩ := h
      exact ⟨rfl, rfl, rest, rfl⟩
    · obtain ⟨p, _, rfl, key, rest, rfl, rfl⟩ := h
      exact ⟨rfl, rfl, rest, by simp [encode]⟩
    · obtain ⟨w, _, rfl, key, rest, rfl, rfl⟩ := h
      exact ⟨rfl, rfl, rest, by simp [encode]⟩
    · obtain ⟨data, _, rfl, type, _, rfl, qos, _, rfl, src, _, rfl, dst, rest, rfl, rfl⟩ := h
      exact ⟨rfl, rfl, rest, by simp [encode]⟩
    · obtain ⟨p, _, rfl, dest, _, rfl, prio, _, rfl, droppable, rest, rfl, rfl⟩ := h
      exact ⟨rfl, rfl, rest, by simp [encode]⟩
    · obtain ⟨now, rest, rfl, rfl⟩ := h
      exact ⟨rfl, rfl, rest, rfl⟩
    · obtain ⟨now, rest, rfl, rfl⟩ := h
      exact ⟨rfl, rfl, rest, rfl⟩
    · obtain ⟨p, _, rfl, now, rest, rfl, rfl⟩ := h
      exact ⟨rfl, rfl, rest, by simp [encode]⟩
    · obtain ⟨dest, _, rfl, seq, rest, rfl, rfl⟩ := h
      exact ⟨rfl, rfl, rest, rfl⟩
    · obtain ⟨now, rest, rfl, rfl⟩ := h
      exact ⟨rfl, rfl, rest, rfl⟩
    · obtain ⟨a, _, rfl, p, rest, rfl, rfl⟩ := h
      exact ⟨rfl, rfl, rest, rfl⟩
    · obtain ⟨now, rest, rfl, rfl⟩ := h
      exact ⟨rfl, rfl, rest, rfl⟩
    · obtain ⟨data, _, rfl, type, _, rfl, dest, _, rfl, requireAck, _, rfl, allowDrop, rest, rfl, rfl⟩ := h
      exact ⟨rfl, rfl, rest, by simp [encode]⟩
    · subst h
      exact ⟨rfl, rfl, bs, rfl⟩
    · obtain ⟨reg, _, rfl, v, rest, ⟨hv, rfl⟩, rfl⟩ := h
      exact ⟨rfl, decide_eq_true hv, rest, by simp [encode]⟩
    · obtain ⟨reg, rest, rfl, rfl⟩ := h
      exact ⟨rfl, rfl, rest, rfl⟩
  · rw [decodeOperands_of_notMem hop] at h
    cases h

/-! ## All formats -/

/-- Every well-formed operation, encoded, decodes to itself in its format. -/
theorem decode_encode (i : Instr) (hwf : i.wellFormed = true) : decode i.format (encode i) = .ok i := by
  cases i with
  | tPing h body => exact decodeHdr_packHdr h Config.tPing body
  | tOta h body => exact decodeHdr_packHdr h Config.tOta body
  | tData h body => exact decodeHdr_packHdr h Config.tData body
  | tAck h body => exact decodeHdr_packHdr h Config.tAck body
  | tId h body => exact decodeHdr_packHdr h Config.tId body
  | hdrReserved5 h body => exact decodeHdr_packHdr h 5 body
  | hdrReserved6 h body => exact decodeHdr_packHdr h 6 body
  | hdrReserved7 h body => exact decodeHdr_packHdr h 7 body
  | ackp acked => rfl
  | stInit now => exact decodeState_encode .init now
  | stListening now => exact decodeState_encode .listening now
  | stTransmitting now => exact decodeState_encode .transmitting now
  | stEnterListen now => exact decodeState_encode .enterListen now
  | stEnterTransmit now => exact decodeState_encode .enterTransmit now
  | prioLow p dest droppable => exact decodePrio_encode .low p dest droppable
  | prioHigh p dest droppable => exact decodePrio_encode .high p dest droppable
  | prioHighest p dest droppable => exact decodePrio_encode .highest p dest droppable
  | _ => exact decodeCmd_encode rfl hwf

/-- Settles O2: `decode_encode`, format by format. -/
theorem decodeEncodeAgree : Obligations.DecodeEncodeAgree := decode_encode

/-- Settles O1: each word is the encoding of its operation, but for the acknowledgement, whose second byte nobody reads. -/
theorem specWordsDecode : Obligations.SpecWordsDecode :=
  ⟨decode_encode .lsReset rfl, decode_encode (.lsTick 1) rfl,
    decode_encode (.tData ⟨1, true, false, 0, 3, 1, 5, 7⟩ [0x68, 0x69]) rfl,
    decode_encode (.hdrReserved7 ⟨1, false, true, 0, 14, 0, 0, 255⟩ []) rfl, rfl,
    decode_encode (.stEnterListen 1) rfl, decode_encode (.prioHighest [] 3 true) rfl⟩

/-- Whatever decodes in a format is a well-formed operation of it, and its encoding begins the frame. -/
theorem decode_spells {fmt : Format} {bs : List Byte} {i : Instr} (h : decode fmt bs = .ok i) : Spells fmt bs i := by
  cases fmt with
  | cmd =>
    cases bs with
    | nil => cases h
    | cons op bs => exact decodeOperands_spells h
  | hdr => exact (decodeHdr_spells h).1
  | ackp =>
    cases bs with
    | nil => cases h
    | cons b bs =>
      obtain rfl : Instr.ackp b = i := Except.ok.inj h
      exact ⟨rfl, rfl, bs, rfl⟩
  | state => exact decodeState_spells h
  | prio => exact decodePrio_spells h

/-- A state code of 5, 6 or 7 is reserved (R129). -/
theorem stateOfCode_reserved (b : Byte) : 5 ≤ b.toNat → b.toNat ≤ 7 → stateOfCode b = .error .reservedCode := by
  revert b; decide

/-- A byte too wide for its operand is refused (R112). -/
theorem getBits_of_wide {n : Nat} {b : Byte} (h : 2 ^ n ≤ b.toNat) (bs : List Byte) :
    getBits n (b :: bs) = .error .operandRange := by
  simp [getBits, Nat.not_lt.2 h]

/-- Settles O4: the refusals one by one, then `decode_spells`. -/
theorem unassignedCodesDecodeToNothing : Obligations.UnassignedCodesDecodeToNothing := by
  refine ⟨fun op bs hop => decodeOperands_of_notMem hop bs, fun b bs hlow hhigh => ?_, fun bs => rfl, fun p dest bs => ?_,
    fun p dest prio b bs hb => ?_, fun b bs hb => ?_, fun b bs hb => ?_, fun fmt bs i h => decode_spells h⟩
  · simp [decode, decodeState, stateOfCode_reserved b hlow hhigh, bind, Except.bind]
  · have hprio : getPrio (3#8 :: bs) = .error .reservedCode := rfl
    simp +decide [decode, decodeCmd, decodeOperands, bind, Except.bind, hprio]
  · have hwide : getBool (b :: bs) = .error .operandRange := by rw [getBool, getBits_of_wide hb]
    simp +decide [decode, decodeCmd, decodeOperands, bind, Except.bind, hwide]
  · have hwide : getBits 4 (b :: bs) = .error .operandRange := getBits_of_wide hb bs
    simp +decide [decode, decodeCmd, decodeOperands, bind, Except.bind, hwide]
  · have hwide : getReg (b :: bs) = .error .operandRange := by rw [getReg, getBits_of_wide hb]
    simp +decide [decode, decodeCmd, decodeOperands, bind, Except.bind, hwide]

end Sys2Proof
end

section
/-! SUPPORT. The obligations on hex (R119, R120) and on `PKT.ENCODE` (R117, R118, R152). -/

namespace Sys2Proof.Machine

/-! ## Hex (R119, R120) -/

/-- Hex encoding gives two characters for each byte, and decoding them gives the bytes back. -/
theorem unhex_hex (b : Buf) : unhex (hex b) = some b ∧ (hex b).length = 2 * b.length := by
  induction b with
  | nil => exact ⟨rfl, rfl⟩
  | cons x xs ih =>
    obtain ⟨hround, hlen⟩ := ih
    refine ⟨by simp only [hex, unhex, hexVal_hexDigit, hround, nibbles_join], ?_⟩
    simp only [hex, List.length_cons, hlen]
    omega

/-- Two characters and a rest decode when both are digits and the rest decodes. -/
theorem unhex_cons_cons_isSome (c d : Byte) (w : Buf) : (unhex (c :: d :: w)).isSome = true ↔
    (hexVal c).isSome = true ∧ (hexVal d).isSome = true ∧ (unhex w).isSome = true := by
  rw [unhex]
  cases hexVal c with
  | none => simp
  | some h =>
    cases hexVal d with
    | none => simp
    | some l => cases unhex w <;> simp

/-- Decoding is defined exactly on the strings of even length of digits. -/
theorem unhex_isSome_iff (w : Buf) :
    (unhex w).isSome = true ↔ w.length % 2 = 0 ∧ ∀ c ∈ w, (hexVal c).isSome = true := by
  induction w using List.twoStepInduction with
  | nil => simp [unhex]
  | singleton c => simp [unhex]
  | cons_cons c d w ih _ =>
    have hlen : (c :: d :: w).length % 2 = w.length % 2 := by simp only [List.length_cons]; omega
    rw [unhex_cons_cons_isSome, ih, hlen, List.forall_mem_cons, List.forall_mem_cons]
    tauto

/-- Settles O17: both clauses by recursion on the string, with `hexVal_isSome` for the characters. -/
theorem hexDecodingInvertsEncoding : Obligations.HexDecodingInvertsEncoding := by
  refine ⟨unhex_hex, fun w => ?_⟩
  simp only [unhex_isSome_iff, hexVal_isSome]

/-! ## `PKT.ENCODE` (R117, R118, R152) -/

/-- A built packet is its header, its payload and its padding. -/
theorem length_buildPkt (version : BitVec 3) (keyEn : Bool) (payload : Buf) (type : PType) (qos split : Bool)
    (src dst : Addr) :
    (buildPkt version keyEn payload type qos split src dst).length = 5 + payload.length + padlenFor keyEn payload.length := by
  simp only [buildPkt, packHdr, List.length_append, List.length_replicate, List.length_cons, List.length_nil]

/-- Under encryption the padding fills the last block (R117). -/
theorem padlenFor_fills (l : Nat) : (5 + l + padlenFor true l) % 16 = 0 := by
  simp only [padlenFor, if_true, Config.blk, Config.hdrLen]
  omega

/-- A payload that fits is built into a packet (R152). -/
theorem encodePkt_of_fits {s : State} {payload : Buf} (h : payload.length ≤ s.params.maxPayload) (type : PType)
    (qos split : Bool) (src dst : Addr) : encodePkt s payload type qos split src dst =
      .ok (buildPkt s.params.versionCur s.cfgKeyEn payload type qos split src dst) := by
  rw [encodePkt, if_neg (Nat.not_lt.2 h)]

/-- A payload above `MAX_PAYLOAD` is refused (R118). -/
theorem encodePkt_of_long {s : State} {payload : Buf} (h : ¬payload.length ≤ s.params.maxPayload) (type : PType)
    (qos split : Bool) (src dst : Addr) :
    encodePkt s payload type qos split src dst = .error ⟨.eTooLong, [payload.length]⟩ := by
  rw [encodePkt, if_pos (Nat.lt_of_not_le h)]

/-- Settles O9: a payload that fits, and one that does not. -/
theorem pktEncodeResult : Obligations.PktEncodeResult := by
  intro payload type qos split src dst s pad p
  have hpad : pad = padlenFor s.cfgKeyEn payload.length := rfl
  have hp : p = buildPkt s.params.versionCur s.cfgKeyEn payload type qos split src dst := rfl
  have hrun : exec (.pktEncode payload type qos split src dst) s =
      .next (finish opPktEncode (codeOf (encodePkt s payload type qos split src dst))
        (.pkt (pktOrEmpty (encodePkt s payload type qos split src dst))) s) := rfl
  refine ⟨fun hkey => ⟨?_, hpad ▸ padlenFor_le _ _⟩, ?_⟩
  · rw [hp, length_buildPkt, hkey, padlenFor_fills]
  · rw [hrun, hp]
    by_cases h : payload.length ≤ s.params.maxPayload
    · rw [encodePkt_of_fits h, if_pos h]
      rfl
    · rw [encodePkt_of_long h, if_neg h]
      rfl

end Sys2Proof.Machine
end

section
/-! SUPPORT. The obligations on received packets by header row, and on the acknowledgement (R114, R122, R267 to R270). -/

namespace Sys2Proof.Machine

/-! ## The acknowledged number (R122, R198, R269) -/

/-- `TQ.RMKEY` when the first entry with the destination and the number is `e` (R198). -/
theorem removeByKey_of_first {dest : Addr} {seq : Byte} {s : State} {before after : List Entry} {e : Entry}
    (hq : s.tq = before ++ e :: after) (hseq : e.seqAssigned = true) (hdest : e.dest = dest) (hnum : seqOf e.pkt = seq)
    (hbefore : ∀ x ∈ before, ¬(x.seqAssigned = true ∧ x.dest = dest ∧ seqOf x.pkt = seq)) :
    removeByKey dest seq s = (.ok, { s with tq := before ++ after, lock := .free }) := by
  have hfirst : splitFirst (hasKey dest seq) s.tq = some (before, e, after) :=
    (splitFirst_eq_some _ _ _ _ _).2 ⟨hq, (hasKey_iff _ _ _).2 ⟨hseq, hdest, hnum⟩,
      fun x hx => by rw [← Bool.not_eq_true, hasKey_iff]; exact hbefore x hx⟩
  simp only [removeByKey, atomic, hfirst, release]

/-- `TQ.RMKEY` when no entry has the destination and the number (R198). -/
theorem removeByKey_of_none {dest : Addr} {seq : Byte} {s : State}
    (hnone : ∀ e ∈ s.tq, ¬(e.seqAssigned = true ∧ e.dest = dest ∧ seqOf e.pkt = seq)) :
    removeByKey dest seq s =
      (.wNoMatch, { s with lock := .free, out := s.out ++ [.log .wNoMatch [dest.toNat, seq.toNat]] }) := by
  have hnot : splitFirst (hasKey dest seq) s.tq = none :=
    (splitFirst_eq_none _ _).2 fun e he => by rw [← Bool.not_eq_true, hasKey_iff]; exact hnone e he
  simp [removeByKey, atomic, hnot, release, raise, logRec, emit, fltMask]

/-- Removing an entry leaves the control fields. -/
theorem removeByKey_control (dest : Addr) (seq : Byte) (s : State) : (removeByKey dest seq s).2.control = s.control :=
  snd_control_eq_of_commutes (fun s c => removeByKey_withControl s c dest seq) s

/-- Settles O24: the row is `TQ.RMKEY` with the latched sender. -/
theorem ackpRetiresEntry : Obligations.AckpRetiresEntry := by
  intro n s
  have hrun : exec (.ackp n) s = .next (removeByKey s.rx.sender n s).2 := rfl
  refine ⟨fun hnone => ?_, fun before after e hq hseq hdest hnum hbefore => ?_⟩
  · rw [hrun, removeByKey_of_none hnone]
  · rw [hrun, removeByKey_of_first hq hseq hdest hnum hbefore]

/-! ## Dropped by the check (R155, R267) -/

/-- A packet that fails the check is logged with the code of the test that failed, and changes nothing else (R267). -/
theorem exec_hdr_of_bad {i : Instr} {s : State} {r : Refuse} (hfmt : i.format = .hdr) (htick : s.tick = [])
    (hbad : checkPkt s (encode i) = .error r) :
    exec i s = .next { (takeCut s).2 with out := s.out ++ [.log r.code r.info] } := by
  obtain ⟨cuts, n, hcut⟩ := takeCut_state s
  rw [(exec_hdr i s hfmt).2]
  refine routeReceived_done _ _ _ htick (by rw [hcut]; exact htick) ?_
  have hbad' : checkPkt (takeCut s).2 (encode i) = .error r := by rw [hcut]; exact hbad
  simp only [routePkt, hbad', dropInbound, logRec, emit]
  rw [hcut]

/-- The three reserved rows are header rows of a type of at least 5. -/
theorem reserved_row {i : Instr} {h : Hdr} {body : Buf}
    (hi : i = .hdrReserved5 h body ∨ i = .hdrReserved6 h body ∨ i = .hdrReserved7 h body) :
    i.format = .hdr ∧ 5 ≤ (typeOf (encode i)).toNat := by
  obtain rfl | rfl | rfl := hi <;>
    exact ⟨rfl, by simp only [encode, (packHdr_views h _ body).1]; decide⟩

/-- Settles O45: the XOR is tested before the type, and a type of at least 5 is not known. -/
theorem reservedTypeIsDropped : Obligations.ReservedTypeIsDropped := by
  intro h body s i htick hknown hi
  obtain ⟨hfmt, htype⟩ := reserved_row hi
  have hnot : typeOf (encode i) ∉ s.params.knownTypes := fun hmem => absurd (hknown _ hmem) (by omega)
  have hcheck := checkPkt_eq s (encode i) (exec_hdr i s hfmt).1
  by_cases hxor : xorAll (encode i) = 0
  · rw [if_neg (not_not.2 hxor), if_pos hnot] at hcheck
    rw [exec_hdr_of_bad hfmt htick hcheck, if_neg (not_not.2 hxor)]
  · rw [if_pos hxor] at hcheck
    rw [exec_hdr_of_bad hfmt htick hcheck, if_pos hxor]

/-! ## Received packets that are not dropped (R267 to R270) -/

section Routing

variable {p : Buf} {s : State}

/-- An identification goes to the registry, whatever the registry answered before (R269). -/
theorem routeByType_of_id (known : Bool) (hid : typeOf p = s.params.tId) :
    routeByType known p s = (emit (.regIdPacket p) s, ackSteps p) := by
  rw [routeByType, if_pos hid]

/-- An acknowledgement without a number is logged (R269). -/
theorem routeByType_of_emptyAck (hack : typeOf p = s.params.tAck) (hne : s.params.tAck ≠ s.params.tId)
    (hempty : payloadOf p = []) : routeByType true p s = (raise .wAckEmpty [(srcOf p).toNat] s, ackSteps p) := by
  simp [routeByType, hack, hne, hempty]

/-- An acknowledgement's number goes to the queue, with its sender (R269). -/
theorem routeByType_of_ack {n : Byte} {rest : Buf} (hack : typeOf p = s.params.tAck) (hne : s.params.tAck ≠ s.params.tId)
    (hpayload : payloadOf p = n :: rest) :
    routeByType true p s = ({ s with rx := { s.rx with sender := srcOf p } }, .ackp n :: ackSteps p) := by
  simp [routeByType, hack, hne, hpayload]

/-- Any other packet of a known sender goes to the tracker (R269). -/
theorem routeByType_of_message (hid : typeOf p ≠ s.params.tId) (hack : typeOf p ≠ s.params.tAck) :
    routeByType true p s = (s, .accept p :: ackSteps p) := by
  simp [routeByType, hid, hack]

/-- One sub-step that adds none, then the acknowledgement (R269, R270). -/
theorem drive_then_ackSteps {m : Micro} {t : State} (hstep : microStep m s = (t, [])) (htick : t.tick = []) :
    drive 15 (m :: ackSteps p) s = if qosOf p then enqueueAck p t else t := by
  rw [drive_cons, hstep]
  exact drive_ackSteps 13 p t htick

end Routing

/-- A packet that passes check and filter is observed and then routed by its type with the registry's answer, not
interrupted (R267 to R269). -/
theorem exec_hdr_of_good {i : Instr} {s : State} {known : Bool} {ks : List Bool} {cs : List (Option Nat)}
    (hfmt : i.format = .hdr) (htick : s.tick = []) (hcuts : s.preempt = none :: cs) (hxor : xorAll (encode i) = 0)
    (htype : typeOf (encode i) ∈ s.params.knownTypes)
    (hversion : versionOf (encode i) ∈ s.params.knownVersions)
    (hmine : s.cfgPromisc = true ∨ dstOf (encode i) = s.cfgAddr.extractLsb' 0 4 ∨ dstOf (encode i) = 15)
    (hknowns : s.knowns = known :: ks) {u : State} {ms : List Micro}
    (hroute : routeByType known (encode i)
      { s with preempt := cs, knowns := ks, out := s.out ++ [.regObserve (encode i) s.rx.quality] } = (u, ms)) :
    exec i s = .next (drive 15 ms u) := by
  obtain ⟨hlen, hrun⟩ := exec_hdr i s hfmt
  have hcheck : checkPkt { s with preempt := cs } (encode i) = .ok () := by
    rw [checkPkt_eq _ _ hlen, if_neg (not_not.2 hxor), if_neg (not_not.2 htype), if_neg (not_not.2 hversion)]
  have hfilter : forMe { s with preempt := cs } (encode i) = true := (forMe_iff _ _).2 hmine
  have hask : askObserve (encode i) s.rx.quality { s with preempt := cs } =
      (known, { s with preempt := cs, knowns := ks, out := s.out ++ [.regObserve (encode i) s.rx.quality] }) := by
    simp only [askObserve, hknowns, emit]
  rw [hrun, routeReceived_more _ _ cs htick hcuts]
  simp only [routePkt, hcheck, hfilter, if_true, hask, hroute]

/-- Settles O48: one sub-step routes the packet, and what is left is its acknowledgement. -/
theorem idPacketGoesToRegistry : Obligations.IdPacketGoesToRegistry := by
  intro i s known ks cs hfmt htick hcuts p hxor htype hversion hmine hknowns u
  have hmem : typeOf p ∈ s.params.knownTypes := by simp [htype, Params.knownTypes]
  have hu : emit (.regIdPacket p)
      { s with preempt := cs, knowns := ks, out := s.out ++ [.regObserve p s.rx.quality] } = u := by simp [emit, u]
  rw [exec_hdr_of_good hfmt htick hcuts hxor hmem hversion hmine hknowns (routeByType_of_id known htype), hu,
    drive_ackSteps 14 p u htick]

/-- Settles O47: with a number, the `ACKP` sub-step comes between routing and acknowledgement. -/
theorem ackPacketRetiresEntry : Obligations.AckPacketRetiresEntry := by
  intro i s ks cs hfmt htick hcuts p hxor htype hne hversion hmine hknowns s1
  have hmem : typeOf p ∈ s.params.knownTypes := by simp [htype, Params.knownTypes]
  constructor
  · intro hempty u
    have hu : raise .wAckEmpty [(srcOf p).toNat] s1 = u := by simp [raise, logRec, emit, fltMask, u]
    rw [exec_hdr_of_good hfmt htick hcuts hxor hmem hversion hmine hknowns (routeByType_of_emptyAck htype hne hempty), hu,
      drive_ackSteps 14 p u htick]
  · intro n rest hpayload
    have hcontrol := removeByKey_control (srcOf p) n { s1 with rx := { s.rx with sender := srcOf p } }
    refine ⟨_, rfl, ?_⟩
    rw [exec_hdr_of_good hfmt htick hcuts hxor hmem hversion hmine hknowns (routeByType_of_ack htype hne hpayload),
      drive_then_ackSteps rfl ((congrArg Control.tick hcontrol).trans htick)]

/-- `RT.ACCEPT` leaves the control fields. -/
theorem acceptPkt_control (a : Addr) (p : Buf) (s : State) : (acceptPkt a p s).2.control = s.control :=
  snd_control_eq_of_commutes (fun s c => acceptPkt_withControl s c a p) s

/-- What a tracker returns is delivered, and nothing else happens (R269, R338). -/
theorem deliverPkt_eq (p : Buf) (s : State) : deliverPkt p s =
    { (acceptPkt (srcOf p) p s).2 with
      out := (acceptPkt (srcOf p) p s).2.out ++
        ((acceptPkt (srcOf p) p s).1.msg.map fun m => Out.cbDeliver m.1 m.1.length m.2).toList } := by
  unfold deliverPkt
  cases h : (acceptPkt (srcOf p) p s).1.msg with
  | none => simp [h]
  | some m => simp [h, emit]

/-- Settles O46: the delivery comes between routing and acknowledgement. -/
theorem messagePacketReachesTracker : Obligations.MessagePacketReachesTracker := by
  intro i s ks cs hfmt htick hcuts p hxor hmem hid hack hversion hmine hknowns
  let s1 : State := { s with preempt := cs, knowns := ks, out := s.out ++ [.regObserve p s.rx.quality] }
  have hdeliver := deliverPkt_eq p s1
  have hdone : (deliverPkt p s1).tick = [] := by
    rw [hdeliver]
    exact (congrArg Control.tick (acceptPkt_control (srcOf p) p s1)).trans htick
  refine ⟨(acceptPkt (srcOf p) p s1).2, (acceptPkt (srcOf p) p s1).1.code, (acceptPkt (srcOf p) p s1).1.msg, rfl, ?_⟩
  rw [exec_hdr_of_good hfmt htick hcuts hxor hmem hversion hmine hknowns (routeByType_of_message (s := s1) hid hack),
    drive_then_ackSteps rfl hdone, hdeliver]

/-! ## The acknowledgement (R122, R270) -/

/-- A one-byte packet fits in an entry (R6, R38, R118). -/
theorem ack_fits {s : State} (hmtu : 21 ≤ s.params.mtu) (keyEn : Bool) (version : BitVec 3) (n : Byte) (type : PType)
    (src dst : Addr) :
    [n].length ≤ s.params.maxPayload ∧ 5 ≤ (buildPkt version keyEn [n] type false false src dst).length ∧
      (buildPkt version keyEn [n] type false false src dst).length ≤ s.params.mtu := by
  have hpad := padlenFor_le keyEn [n].length
  have hlimit : s.params.maxPayload = s.params.mtu - 5 - 15 := rfl
  rw [length_buildPkt]
  simp only [List.length_cons, List.length_nil] at *
  omega

/-- The acknowledgement is an enqueue at HIGHEST of the packet R270 describes. -/
theorem enqueueAck_eq (p : Buf) {s : State} (hmtu : 21 ≤ s.params.mtu) :
    let a := buildPkt s.params.versionCur s.cfgKeyEn [seqOf p] s.params.tAck false false (s.cfgAddr.extractLsb' 0 4) (srcOf p)
    let r := enqueue a (srcOf p) .highest false s
    enqueueAck p s = if r.1 = .ok then { r.2 with fForce := true } else r.2 := by
  have hfits := (ack_fits hmtu s.cfgKeyEn s.params.versionCur (seqOf p) s.params.tAck (localAddr s) (srcOf p)).1
  simp only [enqueueAck, encodePkt_of_fits hfits, pktOrEmpty]
  rfl

/-- HIGHEST is the greatest priority (R123). -/
theorem prio_highest_iff (q : Prio) :
    (Prio.highest.num ≤ q.num ↔ q = .highest) ∧ (q.num < Prio.highest.num ↔ q ≠ .highest) := by
  cases q <;> decide

/-- Settles O49: of the outcomes of an enqueue only the depth and the room are left, since the packet fits and is not
droppable. -/
theorem acknowledgementIsQueued : Obligations.AcknowledgementIsQueued := by
  intro p s hmtu a
  obtain ⟨-, hmin, hmax⟩ :=
    ack_fits hmtu s.cfgKeyEn s.params.versionCur (seqOf p) s.params.tAck (s.cfgAddr.extractLsb' 0 4) (srcOf p)
  have hcap : ¬(false && !exempt s a && capReached s) = true := by simp
  rw [enqueueAck_eq p hmtu]
  refine ⟨fun hfull => ?_, fun hroom => ?_⟩
  · rw [enqueue_of_full (srcOf p) .highest hmax hmin hcap ((full_iff s).2 hfull)]
    rfl
  · have hroom' : ¬exceedsDepth s (s.tq.length + 1) = true := fun hfull => by
      obtain ⟨d, hd, hle⟩ := (full_iff s).1 hfull
      exact absurd (hroom d hd) (Nat.not_lt.2 hle)
    obtain ⟨before, after, hq, hins, hafter, hbefore⟩ := insertEntry_spec (newEntry a (srcOf p) .highest s) s.tq
    refine ⟨before, after, Config.freeLastSent s.free, hq, fun x hx => (prio_highest_iff _).1.1 (hbefore x hx),
      fun x hx => (prio_highest_iff _).2.1 (hafter x hx), ?_⟩
    rw [enqueue_of_room (srcOf p) .highest hmax hmin hcap hroom', hins]
    rfl

end Sys2Proof.Machine
end

section
/-! SUPPORT. The obligations on `PKT.CSUM`, `PKT.SEAL`, `PKT.CHECK` and the wire (R153 to R157, R160 to R162). -/

namespace Sys2Proof.Machine

/-! ## The checksum (R153, R154) -/

/-- The checksum leaves byte 3 out (R153). -/
theorem csumVal_eq (p : Buf) (h : 3 < p.length) : csumVal p = xorAll (p.take 3 ++ p.drop 4) := by
  simp [csumVal, memWrite, List.set_eq_take_append_cons_drop, h, xorAll_append, xorAll]

/-- Settles O10: a packet with a header, and a shorter buffer. -/
theorem pktCsumResult : Obligations.PktCsumResult := by
  intro p s
  change execPktCsum p s = _
  by_cases h : 5 ≤ p.length
  · have hsum : checksum p = .ok (csumVal p) := if_neg (Nat.not_lt.2 h)
    rw [execPktCsum, hsum, csumVal_eq p (by omega), if_pos h]
    rfl
  · have hshort : checksum p = .error ⟨.eShort, [p.length]⟩ := if_pos (Nat.lt_of_not_le h)
    rw [execPktCsum, hshort, if_neg h]
    rfl

/-- The checksum does not depend on byte 3 (R153). -/
theorem csumVal_sealPkt (p : Buf) : csumVal (sealPkt p) = csumVal p := by
  simp only [csumVal, sealPkt, memWrite, List.set_set]

/-- Sealing a sealed packet changes nothing (R154). -/
theorem sealPkt_sealPkt (p : Buf) : sealPkt (sealPkt p) = sealPkt p := by
  rw [sealPkt, csumVal_sealPkt, sealPkt, memWrite, memWrite, List.set_set]

/-- Sealing writes byte 3 only (R154). -/
theorem sealPkt_getElem? (p : Buf) (i : Nat) (h : i ≠ 3) : (sealPkt p)[i]? = p[i]? := by
  simp [sealPkt, memWrite, h.symm]

/-- Another value in one byte changes the XOR of the packet (R162). -/
theorem xorAll_set_ne (p : Buf) (i : Nat) (v : Byte) (hi : i < p.length) (hne : p[i]? ≠ some v) :
    xorAll (p.set i v) ≠ xorAll p := by
  rw [xorAll_set p i v hi, BitVec.xor_assoc]
  intro h
  have hzero : p[i] ^^^ v = 0 := (BitVec.xor_right_inj (xorAll p)).1 (h.trans BitVec.xor_zero.symm)
  exact hne (by rw [List.getElem?_eq_getElem hi, BitVec.xor_eq_zero_iff.1 hzero])

/-! ## `PKT.CHECK` (R155, R160, R162) -/

/-- A packet that fails the check (R155). -/
theorem exec_pktCheck_of_error {p : Buf} {s : State} {r : Refuse} (h : checkPkt s p = .error r) :
    exec (.pktCheck p) s = .next { s with out := s.out ++ [.result 0x03 r.code (.bool false)] } := by
  change execPktCheck p s = _
  rw [execPktCheck, h]
  rfl

/-- A packet that passes the check (R155). -/
theorem exec_pktCheck_of_ok {p : Buf} {s : State} (h : checkPkt s p = .ok ()) :
    exec (.pktCheck p) s = .next { s with out := s.out ++ [.result 0x03 .ok (.bool true)] } := by
  change execPktCheck p s = _
  rw [execPktCheck, h]
  rfl

/-- A sealed packet is checked for its type and its version only (R155). -/
theorem checkPkt_of_sealed {s : State} {p : Buf} (hlen : 5 ≤ p.length) (hxor : xorAll p = 0) :
    checkPkt s p =
      if typeOf p ∉ s.params.knownTypes then .error ⟨.eType, [(typeOf p).toNat]⟩
      else if versionOf p ∉ s.params.knownVersions then .error ⟨.eVersion, [(versionOf p).toNat]⟩
      else .ok () := by
  rw [checkPkt_eq s p hlen, if_neg (not_not.2 hxor)]

/-- Settles O11, test by test. -/
theorem pktCheckResult : Obligations.PktCheckResult := by
  intro p s
  by_cases hshort : p.length < 5
  · have hcheck : checkPkt s p = .error ⟨.eShort, [p.length]⟩ := if_pos hshort
    rw [exec_pktCheck_of_error hcheck, if_pos hshort]
  have hlen : 5 ≤ p.length := Nat.le_of_not_lt hshort
  rw [if_neg hshort]
  by_cases hxor : xorAll p = 0
  · have hcheck := checkPkt_of_sealed (s := s) hlen hxor
    rw [if_neg (not_not.2 hxor)]
    by_cases htype : typeOf p ∉ s.params.knownTypes
    · rw [if_pos htype] at hcheck
      rw [exec_pktCheck_of_error hcheck, if_pos htype]
    rw [if_neg htype] at hcheck ⊢
    by_cases hversion : versionOf p ∉ s.params.knownVersions
    · rw [if_pos hversion] at hcheck
      rw [exec_pktCheck_of_error hcheck, if_pos hversion]
    · rw [if_neg hversion] at hcheck
      rw [exec_pktCheck_of_ok hcheck, if_neg hversion]
  · have hcheck := checkPkt_eq s p hlen
    rw [if_pos hxor] at hcheck
    rw [exec_pktCheck_of_error hcheck, if_pos hxor]

/-- Settles O16: the XOR was 0, so it is not 0 any more. -/
theorem singleByteCorruptionDetected : Obligations.SingleByteCorruptionDetected := by
  intro p i v s hlen hsealed hi hne
  have hxor : xorAll (p.set i v) ≠ 0 := hsealed ▸ xorAll_set_ne p i v hi hne
  have hcheck := checkPkt_eq s (p.set i v) (by rwa [List.length_set])
  rw [if_pos hxor] at hcheck
  exact exec_pktCheck_of_error hcheck

/-! ## Packets that `PKT.ENCODE` builds (R113, R152, R160) -/

section BuildPkt

variable (version : BitVec 3) (keyEn : Bool) (payload : Buf) (type : PType) (qos split : Bool) (src dst : Addr)

@[simp] theorem typeOf_buildPkt : typeOf (buildPkt version keyEn payload type qos split src dst) = type :=
  (ctrlByte_fields version qos split type).1

@[simp] theorem versionOf_buildPkt : versionOf (buildPkt version keyEn payload type qos split src dst) = version :=
  (ctrlByte_fields version qos split type).2.1

@[simp] theorem splitOf_buildPkt : splitOf (buildPkt version keyEn payload type qos split src dst) = split :=
  (ctrlByte_fields version qos split type).2.2.2

@[simp] theorem srcOf_buildPkt : srcOf (buildPkt version keyEn payload type qos split src dst) = src :=
  (addrByte_fields src dst).1

@[simp] theorem padlenOf_buildPkt : padlenOf (buildPkt version keyEn payload type qos split src dst) =
    BitVec.ofNat 8 (padlenFor keyEn payload.length) := rfl

/-- A built packet has a header. -/
theorem five_le_length_buildPkt : 5 ≤ (buildPkt version keyEn payload type qos split src dst).length := by
  rw [length_buildPkt]
  omega

end BuildPkt

/-- A byte the packet has is read alike in a buffer that has the same there. -/
theorem byteAt_congr {p q : Buf} {i : Nat} (hi : i < p.length) (h : q[i]? = p[i]?) : byteAt q i = byteAt p i := by
  rw [byteAt, byteAt, h, List.getElem?_eq_getElem hi]

/-- Sealing leaves byte 0 (R154). -/
theorem byteAt_sealPkt_zero {p : Buf} (h : 5 ≤ p.length) : byteAt (sealPkt p) 0 = byteAt p 0 :=
  byteAt_congr (by omega) (sealPkt_getElem? p 0 (by decide))

theorem typeOf_sealPkt {p : Buf} (h : 5 ≤ p.length) : typeOf (sealPkt p) = typeOf p := by
  rw [typeOf, typeOf, byteAt_sealPkt_zero h]

theorem versionOf_sealPkt {p : Buf} (h : 5 ≤ p.length) : versionOf (sealPkt p) = versionOf p := by
  rw [versionOf, versionOf, byteAt_sealPkt_zero h]

/-- Settles O15: of the four tests only that of the type is left open for a sealed packet of the current version. -/
theorem sealedPacketPassesCheck : Obligations.SealedPacketPassesCheck := by
  refine ⟨fun p hlen => ⟨xorAll_sealPkt p hlen, sealPkt_sealPkt p, length_sealPkt p, sealPkt_getElem? p⟩, ?_⟩
  intro payload type qos split src dst s hversion hfits
  refine ⟨_, encodePkt_of_fits hfits type qos split src dst, ?_⟩
  have hlen := five_le_length_buildPkt s.params.versionCur s.cfgKeyEn payload type qos split src dst
  have hcheck := checkPkt_of_sealed (s := s) ((length_sealPkt _).symm ▸ hlen) (xorAll_sealPkt _ hlen)
  rw [typeOf_sealPkt hlen, versionOf_sealPkt hlen, typeOf_buildPkt, versionOf_buildPkt,
    if_neg (not_not.2 hversion)] at hcheck
  by_cases htype : type ∈ s.params.knownTypes
  · rw [if_neg (not_not.2 htype)] at hcheck
    rw [exec_pktCheck_of_ok hcheck, if_pos htype]
  · rw [if_pos htype] at hcheck
    rw [exec_pktCheck_of_error hcheck, if_neg htype]

/-! ## The wire (R156, R157, R161) -/

/-- `PKT.TOWIRE` answers what `toWire` does. -/
theorem exec_pktToWire (p : Buf) (key : Option Buf) (s : State) :
    exec (.pktToWire p key) s =
      .next { s with out := s.out ++ [.result 0x04 (codeOf (toWire p key)) (.str (pktOrEmpty (toWire p key)))] } := rfl

/-- `PKT.FROMWIRE` answers what `fromWire` does. -/
theorem exec_pktFromWire (w : Buf) (key : Option Buf) (s : State) :
    exec (.pktFromWire w key) s =
      .next { s with out := s.out ++ [.result 0x05 (codeOf (fromWire w key)) (.pkt (pktOrEmpty (fromWire w key)))] } := rfl

/-- A buffer without a header is refused, with or without a key (R156). -/
theorem toWire_of_short {p : Buf} (h : p.length < 5) (key : Option Buf) :
    toWire p key = .error ⟨.eShort, [p.length]⟩ := if_pos h

/-- Without a key the wire carries the packet in hex (R156). -/
theorem toWire_none {p : Buf} (h : 5 ≤ p.length) : toWire p none = .ok (hex p) := if_neg (Nat.not_lt.2 h)

/-- With a key the wire carries the encrypted packet in hex (R156). -/
theorem toWire_some {p : Buf} (h : 5 ≤ p.length) (k : Buf) :
    toWire p (some k) =
      if k.length ≠ 32 then .error ⟨.eKeylen, [k.length]⟩
      else if p.length % 16 ≠ 0 then .error ⟨.eAlign, [p.length]⟩
      else .ok (hex (enc k p)) := if_neg (Nat.not_lt.2 h)

/-- Settles O12, test by test. -/
theorem pktToWireResult : Obligations.PktToWireResult := by
  intro p s
  simp only [exec_pktToWire]
  by_cases hshort : p.length < 5
  · simp only [toWire_of_short hshort, if_pos hshort]
    exact ⟨rfl, fun _ => rfl⟩
  have hlen : 5 ≤ p.length := Nat.le_of_not_lt hshort
  simp only [toWire_none hlen, toWire_some hlen, if_neg hshort]
  refine ⟨rfl, fun k => ?_⟩
  by_cases hkey : k.length ≠ 32
  · simp only [if_pos hkey, codeOf, pktOrEmpty]
  · by_cases halign : p.length % 16 ≠ 0
    · simp only [if_neg hkey, if_pos halign, codeOf, pktOrEmpty]
    · simp only [if_neg hkey, if_neg halign, codeOf, pktOrEmpty]

/-- A string that is not hex (R157). -/
theorem fromWire_of_badHex {w : Buf} (h : unhex w = none) (key : Option Buf) :
    fromWire w key = .error ⟨.eHex, [w.length]⟩ := by
  rw [fromWire, h]

/-- Without a key the decoded bytes are the packet, if they are accepted (R157). -/
theorem fromWire_none {w b : Buf} (h : unhex w = some b) : fromWire w none = acceptBytes b := by
  rw [fromWire, h]

/-- With a key the decrypted bytes are the packet, if they are accepted (R157). -/
theorem fromWire_some {w b : Buf} (h : unhex w = some b) (k : Buf) :
    fromWire w (some k) =
      if k.length ≠ 32 then .error ⟨.eKeylen, [k.length]⟩
      else if b.length % 16 ≠ 0 then .error ⟨.eAlign, [b.length]⟩
      else acceptBytes (dec k b) := by
  rw [fromWire, h]
  rfl

/-- The two tests that end `PKT.FROMWIRE` (R157), with R5's header length written out. -/
theorem acceptBytes_eq (b : Buf) :
    acceptBytes b =
      if b.length < 5 then .error ⟨.eShort, [b.length]⟩
      else if b.length - 5 < (padlenOf b).toNat then .error ⟨.ePadlen, [(padlenOf b).toNat, b.length]⟩
      else .ok b := rfl

/-- The bytes of a valid packet are accepted (R157). -/
theorem acceptBytes_of_valid {b : Buf} (hlen : 5 ≤ b.length) (hpad : (padlenOf b).toNat ≤ b.length - 5) :
    acceptBytes b = .ok b := by
  rw [acceptBytes_eq, if_neg (Nat.not_lt.2 hlen), if_neg (Nat.not_lt.2 hpad)]

/-- What `PKT.FROMWIRE` answers of the bytes it ends with (R157). -/
theorem acceptBytes_result (c : Buf) :
    Out.result 0x05 (codeOf (acceptBytes c)) (.pkt (pktOrEmpty (acceptBytes c))) =
      if c.length < 5 then .result 0x05 .eShort (.pkt [])
      else if c.length - 5 < (padlenOf c).toNat then .result 0x05 .ePadlen (.pkt [])
      else .result 0x05 .ok (.pkt c) := by
  rw [acceptBytes_eq]
  by_cases hshort : c.length < 5
  · simp only [if_pos hshort, codeOf, pktOrEmpty]
  · by_cases hpad : c.length - 5 < (padlenOf c).toNat
    · simp only [if_neg hshort, if_pos hpad, codeOf, pktOrEmpty]
    · simp only [if_neg hshort, if_neg hpad, codeOf, pktOrEmpty]

/-- Settles O13, test by test. -/
theorem pktFromWireResult : Obligations.PktFromWireResult := by
  intro w s
  simp only [exec_pktFromWire]
  refine ⟨fun hhex key => by rw [fromWire_of_badHex hhex]; rfl, fun b hb => ⟨fun key c hc => ?_, fun k hk => ?_⟩⟩
  · have hbytes : fromWire w key = acceptBytes c := by
      obtain ⟨rfl, rfl⟩ | ⟨k, rfl, hkey, halign, rfl⟩ := hc
      · exact fromWire_none hb
      · rw [fromWire_some hb, if_neg (not_not.2 hkey), if_neg (not_not.2 halign)]
    rw [hbytes, acceptBytes_result]
  · by_cases hkey : k.length ≠ 32
    · rw [fromWire_some hb, if_pos hkey, if_pos hkey]
      rfl
    · rw [fromWire_some hb, if_neg hkey, if_neg hkey, if_pos (hk.resolve_left hkey)]
      rfl

/-- Settles O18: hex decoding undoes hex encoding, and decryption undoes encryption. -/
theorem wireRoundTrip : Obligations.WireRoundTrip := by
  intro p hlen hpad key hkey
  have haccept : acceptBytes p = .ok p := acceptBytes_of_valid hlen hpad
  cases key with
  | none => exact ⟨hex p, toWire_none hlen, (fromWire_none (unhex_hex p).1).trans haccept⟩
  | some k =>
    obtain ⟨hkeyLen, halign⟩ := hkey k rfl
    obtain ⟨hdec, hencLen⟩ := dec_enc k p hkeyLen halign
    refine ⟨hex (enc k p), ?_, ?_⟩
    · rw [toWire_some hlen, if_neg (not_not.2 hkeyLen), if_neg (not_not.2 halign)]
    · rw [fromWire_some (unhex_hex (enc k p)).1, hencLen, if_neg (not_not.2 hkeyLen), if_neg (not_not.2 halign), hdec,
        haccept]

end Sys2Proof.Machine
end

section
/-! SUPPORT. Fragmentation and reassembly (R159, R196, R234 to R236, R240): the packets of `PKT.FRAG` carry the data,
numbered and sealed or not, and a tracker that accepts them in order returns it. -/

namespace Sys2Proof.Machine

/-! ## Chunks and payloads (R113, R159) -/

/-- The first `k` chunks joined are the first `k * m` bytes. -/
theorem flatten_chunks_take (m k : Nat) (data : Buf) :
    ((List.range k).map fun i => (data.drop (i * m)).take m).flatten = data.take (k * m) := by
  induction k with
  | zero => simp
  | succ k ih => simp [List.range_succ, ih, Nat.succ_mul, List.take_add]

/-- The chunks joined are the data (R159). -/
theorem flatten_chunksOf {m : Nat} (hm : 0 < m) (data : Buf) : (chunksOf m data).flatten = data := by
  have hall : data.length ≤ (data.length + m - 1) / m * m := by
    have hdiv := Nat.div_add_mod' (data.length + m - 1) m
    have hmod := Nat.mod_lt (data.length + m - 1) hm
    omega
  rw [chunksOf, flatten_chunks_take, List.take_of_length_le hall]

/-- R150. -/
theorem validPkt_iff (p : Buf) : validPkt p = true ↔ 5 ≤ p.length ∧ (padlenOf p).toNat ≤ p.length - 5 := by
  rw [validPkt, Bool.and_eq_true, decide_eq_true_eq, decide_eq_true_eq, Config.hdrLen]

section BuildPkt

variable (version : BitVec 3) (keyEn : Bool) (payload : Buf) (type : PType) (qos split : Bool) (src dst : Addr)

/-- The padding length fits in its byte (R117). -/
theorem toNat_padlenOf_buildPkt :
    (padlenOf (buildPkt version keyEn payload type qos split src dst)).toNat = padlenFor keyEn payload.length := by
  have hle := padlenFor_le keyEn payload.length
  rw [padlenOf_buildPkt, BitVec.toNat_ofNat]
  omega

/-- A built packet is valid (R150). -/
theorem validPkt_buildPkt : validPkt (buildPkt version keyEn payload type qos split src dst) = true := by
  rw [validPkt_iff, toNat_padlenOf_buildPkt, length_buildPkt]
  omega

/-- The payload of a built packet is the one it was built of (R113, R152). -/
theorem payloadOf_buildPkt : payloadOf (buildPkt version keyEn payload type qos split src dst) = payload := by
  have hbody : (buildPkt version keyEn payload type qos split src dst).drop 5 =
      payload ++ List.replicate (padlenFor keyEn payload.length) 0 := rfl
  rw [payloadOf, if_pos (validPkt_buildPkt ..), Config.hdrLen, hbody, toNat_padlenOf_buildPkt, length_buildPkt]
  exact List.take_left' (by omega)

end BuildPkt

/-! ## Number and seal (R196): what they leave of a valid packet -/

section Stamp

variable {p : Buf} (h : validPkt p = true) (n : Byte)

include h

/-- Bytes 0 to 2 are left. -/
theorem byteAt_stamp {i : Nat} (hi : i < 3) : byteAt (stamp p n) i = byteAt p i := by
  have hlen := ((validPkt_iff p).1 h).1
  exact byteAt_congr (by omega) (stamp_getElem? p n i (by omega) (by omega))

theorem typeOf_stamp : typeOf (stamp p n) = typeOf p := by
  rw [typeOf, typeOf, byteAt_stamp h n (by decide)]

theorem splitOf_stamp : splitOf (stamp p n) = splitOf p := by
  rw [splitOf, splitOf, byteAt_stamp h n (by decide)]

theorem srcOf_stamp : srcOf (stamp p n) = srcOf p := by
  rw [srcOf, srcOf, byteAt_stamp h n (by decide)]

theorem padlenOf_stamp : padlenOf (stamp p n) = padlenOf p := byteAt_stamp h n (by decide)

theorem validPkt_stamp : validPkt (stamp p n) = true := by
  rw [validPkt_iff, length_stamp, padlenOf_stamp h]
  exact (validPkt_iff p).1 h

theorem payloadOf_stamp : payloadOf (stamp p n) = payloadOf p := by
  have hbody : (stamp p n).drop 5 = p.drop 5 := by
    rw [stamp, sealPkt, memWrite, memWrite, List.drop_set_of_lt (by decide), List.drop_set_of_lt (by decide)]
  rw [payloadOf, payloadOf, if_pos h, if_pos (validPkt_stamp h n), length_stamp, padlenOf_stamp h, Config.hdrLen, hbody]

end Stamp

/-! ## Fragments -/

/-- Packets that carry `data` one after the other: valid, of one type and one sender, all but the last split, and with the
data as their payloads joined. -/
structure Fragments (data : Buf) (type : PType) (src : Addr) (ps : List Buf) : Prop where
  valid : ∀ p ∈ ps, validPkt p = true
  type_eq : ∀ p ∈ ps, typeOf p = type
  src_eq : ∀ p ∈ ps, srcOf p = src
  split_eq : ∀ i, (h : i < ps.length) → splitOf ps[i] = decide (i + 1 < ps.length)
  payloads : ps.flatMap payloadOf = data

/-- Packet `i` of `PKT.FRAG` is what `PKT.ENCODE` builds of chunk `i` (R159). -/
theorem fragPkts_getElem (s : State) (data : Buf) (type : PType) (qos : Bool) (src dst : Addr) (i : Nat)
    (hi : i < (fragPkts s data type qos src dst).length) :
    (fragPkts s data type qos src dst)[i] =
      buildPkt s.params.versionCur s.cfgKeyEn ((data.drop (i * s.params.maxPayload)).take s.params.maxPayload) type qos
        (decide (i + 1 < (fragPkts s data type qos src dst).length)) src dst := by
  have hfits : ((data.drop (i * s.params.maxPayload)).take s.params.maxPayload).length ≤ s.params.maxPayload :=
    List.length_take_le _ _
  rw [length_fragPkts]
  simp [fragPkts, chunksOf, encodePkt_of_fits hfits, pktOrEmpty]

/-- The packets of `PKT.FRAG` carry the data (R159). -/
theorem fragPkts_fragments {s : State} (hmtu : 21 ≤ s.params.mtu) (data : Buf) (type : PType) (qos : Bool)
    (src dst : Addr) : Fragments data type src (fragPkts s data type qos src dst) := by
  have hbuilt := fragPkts_getElem s data type qos src dst
  have hsome : 0 < s.params.maxPayload := by
    have hlimit : s.params.maxPayload = s.params.mtu - 5 - 15 := rfl
    omega
  constructor
  case valid => exact List.forall_mem_iff_getElem.2 fun i hi => by rw [hbuilt i hi, validPkt_buildPkt]
  case type_eq => exact List.forall_mem_iff_getElem.2 fun i hi => by rw [hbuilt i hi, typeOf_buildPkt]
  case src_eq => exact List.forall_mem_iff_getElem.2 fun i hi => by rw [hbuilt i hi, srcOf_buildPkt]
  case split_eq => exact fun i hi => by rw [hbuilt i hi, splitOf_buildPkt]
  case payloads =>
    have hchunks : (fragPkts s data type qos src dst).map payloadOf = chunksOf s.params.maxPayload data := by
      refine List.ext_getElem (by simp [length_fragPkts, length_chunksOf]) fun i hi _ => ?_
      rw [List.getElem_map, hbuilt i (by simpa using hi), payloadOf_buildPkt]
      simp [chunksOf]
    rw [List.flatMap_def, hchunks, flatten_chunksOf hsome]

/-- Packets as dispatch sends them one after the other: numbered from `n` on modulo 256, and sealed (R196). -/
def numbered (n : Byte) (ps : List Buf) : List Buf := ps.mapIdx fun i p => stamp p (n + BitVec.ofNat 8 i)

/-- Numbering keeps the count. -/
theorem length_numbered (n : Byte) (ps : List Buf) : (numbered n ps).length = ps.length := List.length_mapIdx

/-- Packet `i` of a numbered list has the number `n + i`. -/
theorem numbered_getElem (n : Byte) (ps : List Buf) (i : Nat) (hi : i < (numbered n ps).length) :
    (numbered n ps)[i] = stamp (ps[i]'(length_numbered n ps ▸ hi)) (n + BitVec.ofNat 8 i) := List.getElem_mapIdx ..

/-- Numbered and sealed fragments carry the same data. -/
theorem Fragments.numbered {data : Buf} {type : PType} {src : Addr} {ps : List Buf} (h : Fragments data type src ps)
    (n : Byte) : Fragments data type src (numbered n ps) := by
  have hlen := length_numbered n ps
  have hget := numbered_getElem n ps
  have hvalid : ∀ i, (hi : i < ps.length) → validPkt ps[i] = true := fun i hi => h.valid _ (List.getElem_mem hi)
  constructor
  case valid =>
    exact List.forall_mem_iff_getElem.2 fun i hi => by rw [hget i hi, validPkt_stamp (hvalid i (hlen ▸ hi))]
  case type_eq =>
    refine List.forall_mem_iff_getElem.2 fun i hi => ?_
    rw [hget i hi, typeOf_stamp (hvalid i (hlen ▸ hi)), h.type_eq _ (List.getElem_mem _)]
  case src_eq =>
    refine List.forall_mem_iff_getElem.2 fun i hi => ?_
    rw [hget i hi, srcOf_stamp (hvalid i (hlen ▸ hi)), h.src_eq _ (List.getElem_mem _)]
  case split_eq =>
    intro i hi
    rw [hget i hi, splitOf_stamp (hvalid i (hlen ▸ hi)), h.split_eq i (hlen ▸ hi), hlen]
  case payloads =>
    have hsame : (Machine.numbered n ps).map payloadOf = ps.map payloadOf := by
      refine List.ext_getElem (by simp [hlen]) fun i hi hi' => ?_
      rw [List.length_map] at hi hi'
      rw [List.getElem_map, List.getElem_map, hget i hi, payloadOf_stamp (hvalid i hi')]
    rw [List.flatMap_def, hsame, ← List.flatMap_def, h.payloads]

/-- Settles O14: the packets are built of the chunks, which joined are the data. -/
theorem pktFragResult : Obligations.PktFragResult := by
  intro data type qos src dst s hmtu
  refine ⟨fun hempty => by subst hempty; rfl, fun hdata => ⟨fragPkts s data type qos src dst, ?_, ?_, fun i hi => ?_, ?_⟩⟩
  · exact if_neg (by simpa using hdata)
  · exact length_fragPkts s data type qos src dst
  · rw [List.getElem?_eq_getElem hi, fragPkts_getElem]
  · exact (fragPkts_fragments hmtu data type qos src dst).payloads

/-! ## Reassembly (R231 to R236, R240) -/

/-- Consecutive sequence numbers, as a chain. -/
theorem contiguous_iff (fs : List Buf) : contiguous fs = true ↔ fs.IsChain fun p q => seqOf q = seqOf p + 1 := by
  induction fs using contiguous.induct with
  | case1 => simp [contiguous]
  | case2 => simp [contiguous]
  | case3 p q rest ih => simp [contiguous, ih]

/-- Packets whose numbers count up from `n` modulo 256 are consecutive. -/
theorem numbered_isChain {n : Byte} {ps : List Buf} (h : ∀ i, (hi : i < ps.length) → seqOf ps[i] = n + BitVec.ofNat 8 i) :
    ps.IsChain fun p q => seqOf q = seqOf p + 1 := by
  refine List.isChain_iff_getElem.2 fun i hi => ?_
  rw [h i (by omega), h (i + 1) hi, BitVec.ofNat_add, BitVec.add_assoc]
  rfl

/-- A packet with the number after the last one is no duplicate, and none is missing before it (R231, R233). -/
theorem next_number {t : Tracker} {p : Buf} (h : seqOf p = seqOf t.last + 1) :
    ¬(t.lastValid = true ∧ t.last = p) ∧ missingLogs t p = [] := by
  refine ⟨?_, if_neg fun ⟨_, hne⟩ => hne h⟩
  rintro ⟨-, rfl⟩
  bv_omega

/-- The state after a new split packet found room in the buffer (R234). -/
def bufferFragment (a : Addr) (p : Buf) (s : State) : State :=
  { s with
    rt := s.rt.set a.toNat ⟨true, p, (trackerAt s a).frags ++ [p]⟩ a.isLt, lock := .free
    out := s.out ++ missingLogs (trackerAt s a) p ++ [.result 0x20 .ok (.optMsg none)] }

/-- The tracker after a fragment was kept. -/
theorem trackerAt_bufferFragment (a : Addr) (p : Buf) (s : State) :
    trackerAt (bufferFragment a p s) a = ⟨true, p, (trackerAt s a).frags ++ [p]⟩ := by
  simp [trackerAt, bufferFragment]

section Accept

variable {a : Addr} {p : Buf} {s : State} {type : PType}

/-- A new split packet with room in the buffer is kept, and nothing is returned (R234). -/
theorem exec_rtAccept_fragment (hnew : ¬((trackerAt s a).lastValid = true ∧ (trackerAt s a).last = p))
    (hsplit : splitOf p = true) (hroom : ∀ m ∈ s.params.fragMax, (trackerAt s a).frags.length < m) :
    exec (.rtAccept a p) s = .next (bufferFragment a p s) :=
  (rtSplitFragmentIsBuffered a p s hnew hsplit).2 hroom

/-- The last packet of a run of one type with consecutive numbers: the payloads joined are returned, the buffer is cleared,
and only a missing packet before it is logged (R235, R236). -/
theorem exec_rtAccept_last (hnew : ¬((trackerAt s a).lastValid = true ∧ (trackerAt s a).last = p))
    (hsplit : splitOf p = false) (htype : ∀ f ∈ (trackerAt s a).frags ++ [p], typeOf f = type)
    (hseq : contiguous ((trackerAt s a).frags ++ [p]) = true) :
    exec (.rtAccept a p) s = .next { s with
      rt := s.rt.set a.toNat ⟨true, p, []⟩ a.isLt, lock := .free
      out := s.out ++ missingLogs (trackerAt s a) p ++
        [.result 0x20 .ok (.optMsg (some (((trackerAt s a).frags ++ [p]).flatMap payloadOf, type)))] } := by
  have hrun : exec (.rtAccept a p) s =
      .next (finish opRtAccept (acceptPkt a p s).1.code (.optMsg (acceptPkt a p s).1.msg) (acceptPkt a p s).2) := rfl
  obtain ⟨hv, hl, -⟩ | ⟨-, ⟨h, -⟩ | ⟨h, -⟩ | ⟨-, hempty, h⟩ | ⟨f, fs, -, hfrags, h⟩⟩ := acceptPkt_cases a p s
  · exact absurd ⟨hv, hl.symm⟩ hnew
  · simp [hsplit] at h
  · simp [hsplit] at h
  · rw [hempty] at htype ⊢
    rw [hrun, h, htype p (by simp)]
    simp [finish, emit, setTracker, opRtAccept]
  · rw [hfrags] at htype hseq ⊢
    have hfirst : typeOf f = type := htype f (by simp)
    have hsame : ¬((f :: fs ++ [p]).any fun g => typeOf g != type) = true := fun hany => by
      obtain ⟨g, hg, hne⟩ := List.any_eq_true.1 hany
      exact bne_iff_ne.1 hne (htype g hg)
    rw [hrun, h, hfirst, if_neg hsame, if_pos hseq]
    simp [finish, emit, setTracker, opRtAccept]

end Accept

/-- A run of fragments of one type with consecutive numbers, of which a tracker holds the first ones, and its last packet:
nothing is returned but for the last packet, which returns all payloads joined; only a missing packet before the first
accepted one, `q`, is logged. -/
theorem execAll_rtAccept_run (a : Addr) (p : Buf) (type : PType) (hlast : splitOf p = false) (fs : List Buf) :
    ∀ (s : State) (q : Buf), (fs ++ [p]).head? = some q →
    ¬((trackerAt s a).lastValid = true ∧ (trackerAt s a).last = q) → (∀ f ∈ fs, splitOf f = true) →
    (∀ f ∈ (trackerAt s a).frags ++ (fs ++ [p]), typeOf f = type) →
    ((trackerAt s a).frags ++ (fs ++ [p])).IsChain (fun f g => seqOf g = seqOf f + 1) →
    (∀ m ∈ s.params.fragMax, (trackerAt s a).frags.length + fs.length ≤ m) →
    execAll ((fs ++ [p]).map fun f => .rtAccept a f) s = .next { s with
      rt := s.rt.set a.toNat ⟨true, p, []⟩ a.isLt, lock := .free
      out := s.out ++ missingLogs (trackerAt s a) q ++ List.replicate fs.length (.result 0x20 .ok (.optMsg none)) ++
        [.result 0x20 .ok (.optMsg (some (((trackerAt s a).frags ++ (fs ++ [p])).flatMap payloadOf, type)))] } := by
  induction fs with
  | nil =>
    intro s q hq hnew _ htype hseq _
    obtain rfl : p = q := by simpa using hq
    have hexec := exec_rtAccept_last hnew hlast htype ((contiguous_iff _).2 hseq)
    simp [execAll, hexec]
  | cons f fs ih =>
    intro s q hq hnew hsplit htype hseq hroom
    obtain rfl : f = q := by simpa using hq
    obtain ⟨hsplitFirst, hsplitRest⟩ := List.forall_mem_cons.1 hsplit
    have hexec := exec_rtAccept_fragment hnew hsplitFirst fun m hm =>
      Nat.lt_of_lt_of_le (Nat.lt_add_of_pos_right (Nat.succ_pos _)) (hroom m hm)
    have htracker := trackerAt_bufferFragment a f s
    generalize hs1 : bufferFragment a f s = s1 at hexec htracker
    obtain ⟨g, rest, hg⟩ : ∃ g rest, fs ++ [p] = g :: rest := List.exists_cons_of_ne_nil (by simp)
    have hnext : seqOf g = seqOf f + 1 := by
      have hchain := (List.isChain_append.1 hseq).2.1
      rw [List.cons_append, hg] at hchain
      exact (List.isChain_cons_cons.1 hchain).1
    obtain ⟨hnew', hquiet⟩ := next_number (t := trackerAt s1 a) (p := g) (by rw [htracker, hnext])
    have hheld : (trackerAt s1 a).frags ++ (fs ++ [p]) = (trackerAt s a).frags ++ (f :: fs ++ [p]) := by simp [htracker]
    have hroom' : ∀ m ∈ s1.params.fragMax, (trackerAt s1 a).frags.length + fs.length ≤ m := by
      intro m hm
      have hle := hroom m (by rwa [← hs1] at hm)
      rw [htracker, List.length_append, List.length_singleton]
      rw [List.length_cons] at hle
      omega
    have hrest := ih s1 g (by rw [hg]; rfl) hnew' hsplitRest (hheld ▸ htype) (hheld ▸ hseq) hroom'
    rw [hheld, hquiet] at hrest
    rw [List.cons_append, List.map_cons, execAll, hexec]
    refine hrest.trans ?_
    simp [← hs1, bufferFragment, List.replicate_succ]

/-- The number of a packet of a numbered list. -/
theorem seqOf_numbered {n : Byte} {ps : List Buf} (h : ∀ p ∈ ps, 5 ≤ p.length) (i : Nat)
    (hi : i < (numbered n ps).length) : seqOf (numbered n ps)[i] = n + BitVec.ofNat 8 i := by
  rw [numbered_getElem, seqOf_stamp _ _ (h _ (List.getElem_mem _))]

/-- Fragments are split ones and a last one that is not. -/
theorem Fragments.split_last {data : Buf} {type : PType} {src : Addr} {fs : List Buf} {p : Buf}
    (h : Fragments data type src (fs ++ [p])) : (∀ f ∈ fs, splitOf f = true) ∧ splitOf p = false := by
  have hlen : (fs ++ [p]).length = fs.length + 1 := List.length_append
  constructor
  · refine List.forall_mem_iff_getElem.2 fun i hi => ?_
    have hsplit := h.split_eq i (by omega)
    rwa [List.getElem_append_left hi, decide_eq_true (by omega)] at hsplit
  · have hsplit := h.split_eq fs.length (by omega)
    rwa [List.getElem_concat_length rfl, decide_eq_false (by omega)] at hsplit

/-- Settles O34: the numbered packets are fragments with consecutive numbers, and the tracker holds none before them. -/
theorem fragmentsReassemble : Obligations.FragmentsReassemble := by
  intro s a data type qos src dst n hmtu hdata ps t missing hempty hroom hnew
  have hfragments : Fragments data type src ps := (fragPkts_fragments hmtu data type qos src dst).numbered n
  have hnumber : ∀ i, (hi : i < ps.length) → seqOf ps[i] = n + BitVec.ofNat 8 i :=
    seqOf_numbered fun p hp => (fragPkts_length s data type qos src dst p hp).1
  clear_value ps
  have hne : ps ≠ [] := by
    rintro rfl
    exact hdata hfragments.payloads.symm
  obtain ⟨fs, p, rfl⟩ : ∃ fs p, ps = fs ++ [p] := ⟨_, _, (List.dropLast_concat_getLast hne).symm⟩
  obtain ⟨hsplit, hlast⟩ := hfragments.split_last
  obtain ⟨q, hq⟩ : ∃ q, (fs ++ [p]).head? = some q := ⟨_, List.head?_eq_some_head hne⟩
  have hfirst : seqOf q = n ∧ srcOf q = src := by
    obtain ⟨hpos, rfl⟩ := List.getElem?_eq_some_iff.1 (List.head?_eq_getElem? ▸ hq)
    exact ⟨by simpa using hnumber 0 hpos, hfragments.src_eq _ (List.getElem_mem hpos)⟩
  have hmissing : missing = missingLogs (trackerAt s a) q := by
    rw [missingLogs, hfirst.1, hfirst.2]
    rfl
  have hheld : (trackerAt s a).frags = [] := hempty
  have hall : (trackerAt s a).frags ++ (fs ++ [p]) = fs ++ [p] := by rw [hheld, List.nil_append]
  have hroom' : ∀ m ∈ s.params.fragMax, (trackerAt s a).frags.length + fs.length ≤ m := by
    simpa [hheld] using hroom
  have hrun := execAll_rtAccept_run a p type hlast fs s q hq (hnew q hq) hsplit
  rw [hall] at hrun
  rw [hrun hfragments.type_eq (numbered_isChain hnumber) hroom', hmissing, hfragments.payloads, List.getLastD_concat]
  simp

end Sys2Proof.Machine
end

section
/-! SUPPORT. The obligation on received packets that are dropped (R155, R267 to R269). -/

namespace Sys2Proof.Machine

/-- A row whose routing ends with the first sub-step, whatever the script of interruptions says (R87). -/
theorem exec_hdr_of_done {i : Instr} {s u : State} (hfmt : i.format = .hdr) (htick : s.tick = []) (hu : u.tick = [])
    (hroute : routePkt (encode i) (takeCut s).2 = (u, [])) : exec i s = .next u := by
  rw [(exec_hdr i s hfmt).2]
  exact routeReceived_done _ _ _ htick hu hroute

section Routing

variable {p : Buf} {s : State}

/-- A packet that passes the check and is for another host is logged (R268). -/
theorem routePkt_of_other (hcheck : checkPkt s p = .ok ())
    (hother : ¬(s.cfgPromisc = true ∨ dstOf p = s.cfgAddr.extractLsb' 0 4 ∨ dstOf p = 15)) :
    routePkt p s = ({ s with out := s.out ++ [.log .wNotForMe [(dstOf p).toNat]] }, []) := by
  have hfilter : ¬forMe s p = true := mt (forMe_iff s p).1 hother
  simp [routePkt, hcheck, hfilter, raise, logRec, emit, fltMask]

/-- A packet that passes check and filter, is no identification, and whose sender the registry does not know, is logged and
reported (R269). -/
theorem routePkt_of_unknown {ks : List Bool} (hcheck : checkPkt s p = .ok ())
    (hmine : s.cfgPromisc = true ∨ dstOf p = s.cfgAddr.extractLsb' 0 4 ∨ dstOf p = 15) (hid : typeOf p ≠ s.params.tId)
    (hknowns : s.knowns = false :: ks) :
    routePkt p s =
      ({ s with
          knowns := ks
          out := s.out ++ [.regObserve p s.rx.quality, .log .wUnkSender [(srcOf p).toNat], .regUnknownSender (srcOf p)] },
        []) := by
  have hfilter : forMe s p = true := (forMe_iff s p).2 hmine
  simp [routePkt, hcheck, hfilter, askObserve, hknowns, routeByType, hid, raise, logRec, emit, fltMask]

end Routing

/-- Settles O44: the test that fails, the filter, or the registry ends the routing. -/
theorem droppedPacketChangesNothing : Obligations.DroppedPacketChangesNothing := by
  intro i s hfmt htick p bad mine s0
  have hcheck := checkPkt_eq s p (exec_hdr i s hfmt).1
  obtain ⟨cuts, n, hcut⟩ := takeCut_state s
  have hs0 : s0 = { s with preempt := cuts, choices := n } := hcut
  have hgood : ¬bad → checkPkt s p = .ok () := fun hnot => by
    obtain ⟨hxor, htype, hversion⟩ : ¬xorAll p ≠ 0 ∧ ¬typeOf p ∉ s.params.knownTypes ∧
        ¬versionOf p ∉ s.params.knownVersions := by simpa only [bad, not_or] using hnot
    rw [hcheck, if_neg hxor, if_neg htype, if_neg hversion]
  refine ⟨fun hbad => ?_, fun hnot hother => ?_, fun hnot hmine hid ks hknowns => ?_⟩
  · by_cases hxor : xorAll p ≠ 0
    · rw [if_pos hxor] at hcheck ⊢
      exact exec_hdr_of_bad hfmt htick hcheck
    rw [if_neg hxor] at hcheck ⊢
    by_cases htype : typeOf p ∉ s.params.knownTypes
    · rw [if_pos htype] at hcheck ⊢
      exact exec_hdr_of_bad hfmt htick hcheck
    have hversion := (hbad.resolve_left hxor).resolve_left htype
    rw [if_neg htype] at hcheck ⊢
    rw [if_pos hversion] at hcheck
    exact exec_hdr_of_bad hfmt htick hcheck
  · have hroute := routePkt_of_other (s := { s with preempt := cuts, choices := n }) (hgood hnot) hother
    rw [hs0]
    exact exec_hdr_of_done hfmt htick htick (by rw [hcut]; exact hroute)
  · have hroute := routePkt_of_unknown (s := { s with preempt := cuts, choices := n }) (hgood hnot) hmine hid hknowns
    rw [hs0]
    exact exec_hdr_of_done hfmt htick htick (by rw [hcut]; exact hroute)

end Sys2Proof.Machine
end

section
/-! SUPPORT. The obligations on `TQ.PEEK`, `TQ.NEXT`, `TQ.RMKEY` and `TQ.CLEAN` (R191, R194 to R196, R198, R199), and on the
life of a reliable packet (R202), which is one hand-over after another by `TQ.NEXT` and `TQ.MARK`. -/

namespace Sys2Proof.Machine

/-! ## `TQ.PEEK` (R194) -/

/-- Settles O19: the answer is whether some entry is sendable, and `sendable_iff` spells the predicate out. -/
theorem tqPeekResult : Obligations.TqPeekResult := by
  intro now s
  refine ⟨s.tq.any fun e => sendable e now, rfl, ?_⟩
  simp only [List.any_eq_true, sendable_iff]

/-! ## `TQ.NEXT` (R195, R196) -/

/-- `TQ.NEXT` with nothing sendable (R195). -/
theorem nextSendable_of_none {now : Ticks} {s : State} (h : ∀ e ∈ s.tq, sendable e now = false) :
    nextSendable now s = (none, release s) := by
  have hnone := (splitFirst_eq_none (fun e => sendable e now) s.tq).2 h
  simp only [nextSendable, atomic, hnone]

/-- An entry that has its number keeps it (R196). -/
theorem dispatch_of_numbered {e : Entry} (s : State) (h : e.seqAssigned = true) : dispatch e s = (e, s) := by
  simp only [dispatch, h, if_true]

/-- The first dispatch of an entry (R196). -/
theorem dispatch_of_unnumbered {e : Entry} (s : State) (h : e.seqAssigned = false) :
    dispatch e s =
      ({ e with pkt := sealPkt (e.pkt.set 4 (s.seq[e.dest.toNat]'e.dest.isLt)), seqAssigned := true },
        { s with seq := s.seq.set e.dest.toNat (s.seq[e.dest.toNat]'e.dest.isLt + 1) e.dest.isLt }) := by
  simp [dispatch_eq, h]

/-- Settles O21: nothing sendable, a retransmission, and a first dispatch. -/
theorem tqNextResult : Obligations.TqNextResult := by
  intro now s
  have hrun : exec (.tqNext now) s =
      .next (finish opTqNext .ok (.optPkt (nextSendable now s).1) (nextSendable now s).2) := rfl
  refine ⟨fun hnone => ?_, fun before after e hq hsend hbefore => ?_⟩
  · rw [hrun, nextSendable_of_none hnone]
    rfl
  · rw [hrun, nextSendable_of_first now s before after e hq hsend hbefore]
    refine ⟨fun hnumbered => ?_, fun hnew => ?_⟩
    · rw [dispatch_of_numbered s hnumbered, ← hq]
      rfl
    · rw [dispatch_of_unnumbered s hnew]
      rfl

/-! ## `TQ.RMKEY` (R198) -/

/-- Settles O23: no entry has the key, or the first that has it leaves. -/
theorem tqRmkeyResult : Obligations.TqRmkeyResult := by
  intro dest seq s
  have hrun : exec (.tqRmkey dest seq) s =
      .next (finish opTqRmkey (removeByKey dest seq s).1 .none (removeByKey dest seq s).2) := rfl
  refine ⟨fun hnone => ?_, fun before after e hq hseq hdest hnum hbefore => ?_⟩
  · rw [hrun, removeByKey_of_none hnone]
    simp [finish, emit, opTqRmkey]
  · rw [hrun, removeByKey_of_first hq hseq hdest hnum hbefore]
    rfl

/-! ## `TQ.CLEAN` (R199) -/

/-- `TQ.CLEAN` on the command port (R36, R199). -/
theorem exec_tqClean (now : Ticks) (s : State) :
    exec (.tqClean now) s = .next (finish opTqClean .ok (.count (cleanUp now s).1) (cleanUp now s).2) := rfl

/-- Settles O25: the entries dropped are the expired ones, and `cleanUp_eq` says what dropping them does. -/
theorem tqCleanResult : Obligations.TqCleanResult := by
  intro now s spent gone
  have hspent : spent = fun e => expired e now :=
    funext fun e => Bool.eq_iff_iff.2 (decide_eq_true_iff.trans (expired_iff e now).symm)
  rw [exec_tqClean, cleanUp_eq]
  simp only [gone, hspent]
  rfl

/-! ## The life of a reliable packet (R202) -/

/-- Operations after others that all answered. -/
theorem execAll_append {is : List Instr} {s t : State} (h : execAll is s = .next t) (js : List Instr) :
    execAll (is ++ js) s = execAll js t := by
  induction is generalizing s with
  | nil => cases h; rfl
  | cons i is ih =>
    simp only [List.cons_append, execAll] at h ⊢
    split at h
    · exact ih h
    · cases h
    · cases h

/-- The operations by which the scheduler hands a packet over at a time: it is taken from the queue and marked. -/
def handOver (p : Buf) (n : Ticks) : List Instr := [.tqNext n, .tqMark p n]

/-- What a hand-over answers. -/
def handOverOut (p : Buf) : List Out := [.result 0x12 .ok (.optPkt (some p)), .result 0x13 .ok .none]

/-- The entry after `k` more attempts, the last of them at `n`. -/
def Entry.attempted (e : Entry) (k : Nat) (n : Ticks) : Entry :=
  { e with sentCount := e.sentCount + BitVec.ofNat 8 k, lastSent := n }

/-- Attempts after attempts. -/
theorem Entry.attempted_attempted (e : Entry) (j k : Nat) (m n : Ticks) :
    (e.attempted j m).attempted k n = e.attempted (j + k) n := by
  simp [Entry.attempted, BitVec.ofNat_add, BitVec.add_assoc]

/-- Up to the budget and one beyond, a count is the number of attempts (R39 (d)). -/
theorem Entry.toNat_sentCount_attempted {e : Entry} {k : Nat} (n : Ticks) (hretry : e.maxRetry.toNat ≤ 254)
    (hbudget : e.sentCount.toNat + k ≤ e.maxRetry.toNat + 1) :
    (e.attempted k n).sentCount.toNat = e.sentCount.toNat + k := by
  simp only [Entry.attempted, BitVec.toNat_add, BitVec.toNat_ofNat]
  omega

section Reliable

variable {s : State} {e : Entry}

/-- Marking a reliable packet alone in the queue counts an attempt (R197). -/
theorem exec_tqMark_of_reliable (n : Ticks) (hq : s.tq = [e]) (hseq : e.seqAssigned = true) (hqos : qosOf e.pkt = true)
    (hretry : e.maxRetry.toNat ≤ 254) (hbudget : e.sentCount.toNat ≤ e.maxRetry.toNat) :
    exec (.tqMark e.pkt n) s =
      .next { s with tq := [e.attempted 1 n], lock := .free, out := s.out ++ [.result 0x13 .ok .none] } := by
  obtain ⟨-, hmatch⟩ := tqMarkResult e.pkt n s
  obtain ⟨-, hreliable⟩ := hmatch [] [] e hq hseq rfl (by simp)
  obtain ⟨c, -, hcount, -, hmark⟩ := hreliable hqos
  have hne : e.sentCount ≠ 255 := by
    intro h
    simp [h] at hbudget
    omega
  rw [hmark, hcount hbudget hne]
  rfl

/-- One hand-over of a reliable packet alone in the queue, which it leaves there with one attempt more (R195, R197). -/
theorem execAll_handOver {n : Ticks} (hq : s.tq = [e]) (hseq : e.seqAssigned = true) (hqos : qosOf e.pkt = true)
    (hretry : e.maxRetry.toNat ≤ 254) (hbudget : e.sentCount.toNat ≤ e.maxRetry.toNat) (hsend : sendable e n = true) :
    execAll (handOver e.pkt n) s =
      .next { s with tq := [e.attempted 1 n], lock := .free, out := s.out ++ handOverOut e.pkt } := by
  obtain ⟨-, hfirst⟩ := tqNextResult n s
  obtain ⟨hnext, -⟩ := hfirst [] [] e hq hsend (by simp)
  have hmark := exec_tqMark_of_reliable
    (s := { s with lock := .free, out := s.out ++ [.result 0x12 .ok (.optPkt (some e.pkt))] }) n hq hseq hqos hretry hbudget
  simp only [handOver, execAll, hnext hseq, hmark]
  simp [handOverOut]

/-- Hand-overs a timeout apart, within the budget, each find the packet sendable (R191, R202): induction on those after the
first. -/
theorem execAll_handOvers (ns : List Ticks) {n : Ticks} (hq : s.tq = [e]) (hseq : e.seqAssigned = true)
    (hqos : qosOf e.pkt = true) (hretry : e.maxRetry.toNat ≤ 254)
    (hbudget : e.sentCount.toNat + ns.length ≤ e.maxRetry.toNat) (hsend : sendable e n = true)
    (hchain : (n :: ns).IsChain fun a b => e.timeout.toNat ≤ (b - a).toNat) :
    execAll ((n :: ns).flatMap (handOver e.pkt)) s =
      .next { s with
        tq := [e.attempted (n :: ns).length ((n :: ns).getLastD 0)], lock := .free
        out := s.out ++ (n :: ns).flatMap fun _ => handOverOut e.pkt } := by
  induction ns generalizing s e n with
  | nil => simpa using execAll_handOver hq hseq hqos hretry hbudget hsend
  | cons m ns ih =>
    obtain ⟨hwait, hchain⟩ := List.isChain_cons_cons.1 hchain
    rw [List.length_cons] at hbudget
    have hfirst := execAll_handOver hq hseq hqos hretry (by omega) hsend
    have hcount := e.toNat_sentCount_attempted n hretry (k := 1) (by omega)
    have hbudget' : (e.attempted 1 n).sentCount.toNat + ns.length ≤ (e.attempted 1 n).maxRetry.toNat := by
      rw [hcount]
      show e.sentCount.toNat + 1 + ns.length ≤ e.maxRetry.toNat
      omega
    have hsend' : sendable (e.attempted 1 n) m = true :=
      (sendable_iff _ _).2 (.inr ⟨hwait, (Nat.le_add_right _ _).trans hbudget'⟩)
    have hrest := ih (e := e.attempted 1 n)
      (s := { s with tq := [e.attempted 1 n], lock := .free, out := s.out ++ handOverOut e.pkt })
      rfl hseq hqos hretry hbudget' hsend' hchain
    rw [List.flatMap_cons, execAll_append hfirst]
    refine hrest.trans ?_
    rw [Entry.attempted_attempted, Nat.add_comm, List.append_assoc]
    rfl

/-- A packet past its budget is never returned again (R191). -/
theorem exec_tqNext_of_spent (hq : s.tq = [e]) (hlock : s.lock = .free)
    (hspent : e.sentCount.toNat = e.maxRetry.toNat + 1) (now : Ticks) :
    exec (.tqNext now) s = .next { s with out := s.out ++ [.result 0x12 .ok (.optPkt none)] } := by
  have hnot : sendable e now = false := by
    have hne : e.sentCount ≠ 0 := fun h => by simp [h] at hspent
    rw [← Bool.not_eq_true, sendable_iff]
    rintro (h | ⟨-, hle⟩)
    · exact hne h
    · omega
  obtain ⟨hnone, -⟩ := tqNextResult now s
  rw [hnone (by simpa [hq] using hnot), ← hlock]

/-- A packet alone in the queue that has expired is dropped (R199). -/
theorem exec_tqClean_of_expired {now : Ticks} (hq : s.tq = [e]) (hlock : s.lock = .free)
    (hexpired : expired e now = true) :
    exec (.tqClean now) s = .next { s with
      tq := [], flt := s.flt ||| 0x10,
      out := s.out ++ [.log .eRetryExh [e.dest.toNat, (seqOf e.pkt).toNat], .result 0x15 .ok (.count 1)] } := by
  rw [exec_tqClean, cleanUp_eq]
  simp [hq, hexpired, dropLogs, finish, emit, opTqClean, ← hlock]

/-- A packet alone in the queue that has not expired stays (R199). -/
theorem exec_tqClean_of_not_expired {now : Ticks} (hq : s.tq = [e]) (hlock : s.lock = .free)
    (hexpired : ¬expired e now = true) :
    exec (.tqClean now) s = .next { s with out := s.out ++ [.result 0x15 .ok (.count 0)] } := by
  rw [exec_tqClean, cleanUp_eq]
  simp [hq, hexpired, dropLogs, finish, emit, opTqClean, ← hlock]

/-- What is left for a packet past its budget: it is never returned, and it stays until its timeout elapses (R202). -/
theorem exec_of_spent (hq : s.tq = [e]) (hlock : s.lock = .free) (hspent : e.sentCount.toNat = e.maxRetry.toNat + 1)
    (now : Ticks) :
    exec (.tqNext now) s = .next { s with out := s.out ++ [.result 0x12 .ok (.optPkt none)] } ∧
      (e.timeout.toNat ≤ (now - e.lastSent).toNat →
        exec (.tqClean now) s = .next { s with
          tq := [], flt := s.flt ||| 0x10,
          out := s.out ++ [.log .eRetryExh [e.dest.toNat, (seqOf e.pkt).toNat], .result 0x15 .ok (.count 1)] }) ∧
      ((now - e.lastSent).toNat < e.timeout.toNat →
        exec (.tqClean now) s = .next { s with out := s.out ++ [.result 0x15 .ok (.count 0)] }) := by
  have hexpired : expired e now = true ↔ e.timeout.toNat ≤ (now - e.lastSent).toNat :=
    (expired_iff e now).trans (and_iff_right hspent.ge)
  exact ⟨exec_tqNext_of_spent hq hlock hspent now, fun hdue => exec_tqClean_of_expired hq hlock (hexpired.2 hdue),
    fun hearly => exec_tqClean_of_not_expired hq hlock fun h => hearly.not_ge (hexpired.1 h)⟩

end Reliable

/-- Settles O27: the hand-overs one after the other, and what the last leaves: a packet past its budget. -/
theorem reliablePacketIsRetriedThenDropped : Obligations.ReliablePacketIsRetriedThenDropped := by
  intro s e ts hq hseq hqos hcount hretry hne hlen hchain
  obtain ⟨n, ns, rfl⟩ := List.exists_cons_of_ne_nil hne
  have hzero : e.sentCount.toNat = 0 := by simp [hcount]
  rw [List.length_cons] at hlen
  have hrun := execAll_handOvers ns hq hseq hqos hretry (by omega) ((sendable_iff e n).2 (.inl hcount)) hchain
  refine ⟨_, hrun, rfl, by simp [Entry.attempted, hcount], rfl, rfl, fun hlast now => ?_⟩
  have hspent := e.toNat_sentCount_attempted ((n :: ns).getLastD 0) hretry (k := (n :: ns).length) (by omega)
  exact exec_of_spent (e := e.attempted (n :: ns).length ((n :: ns).getLastD 0)) rfl rfl
    (hspent.trans (by rw [hzero, Nat.zero_add, hlast]; rfl)) now

end Sys2Proof.Machine
end

section
/-! SUPPORT. The obligation on how entries leave the queue (R204): what each operation, sub-step and run that may not remove
an entry does to the queue, and that every other is one the rule names. -/

namespace Sys2Proof.Machine

/-! ## Queue and tracker operations -/

/-- An insertion keeps the entries that stand in the queue (R192). -/
theorem sublist_insertEntry (e : Entry) (q : List Entry) : q.Sublist (insertEntry e q) := by
  obtain ⟨before, after, rfl, hins, -⟩ := insertEntry_spec e q
  rw [hins]
  exact (List.sublist_cons_self e after).append_left before

section Operations

variable (s : State)

/-- An enqueue adds at most an entry (R192). -/
theorem enqueue_keeps_entries (p : Buf) (dest : Addr) (prio : Prio) (droppable : Bool) :
    s.tq.Sublist (enqueue p dest prio droppable s).2.tq := by
  obtain ⟨-, h⟩ | ⟨-, -, h⟩ | ⟨-, -, -, -, -, h⟩ | ⟨-, -, -, -, h⟩ | ⟨-, -, -, -, h⟩ :=
    enqueue_cases p dest prio droppable s <;> rw [h]
  case inr.inr.inr.inr => exact sublist_insertEntry _ s.tq
  all_goals exact .refl s.tq

/-- A first dispatch changes an entry where it stands (R196). -/
theorem nextSendable_length_tq (now : Ticks) : (nextSendable now s).2.tq.length = s.tq.length := by
  obtain ⟨-, h⟩ | ⟨before, e, after, hq, -, -, ⟨-, h⟩ | ⟨-, h⟩⟩ := nextSendable_cases now s <;> rw [h]
  simp [hq]

theorem acceptPkt_tq (a : Addr) (p : Buf) : (acceptPkt a p s).2.tq = s.tq := by
  obtain ⟨-, -, h⟩ | ⟨-, ⟨-, -, h⟩ | ⟨-, -, h⟩ | ⟨-, -, h⟩ | ⟨f, fs, -, -, h⟩⟩ := acceptPkt_cases a p s <;>
    (rw [h]; rfl)

theorem sendRoom_tq (type : PType) (allowDrop : Bool) (k : Nat) : (sendRoom type allowDrop k s).2.tq = s.tq := by
  obtain ⟨-, h⟩ | ⟨-, -, h⟩ | ⟨-, -, h⟩ := sendRoom_cases type allowDrop k s <;> simp [h]

theorem cfgWrite_tq (r : CfgReg) (v : Nat) : (cfgWrite r v s).2.tq = s.tq := by
  obtain ⟨-, h⟩ | ⟨-, -, -, h⟩ | ⟨-, -, -, h⟩ | ⟨-, -, -, h⟩ := cfgWrite_cases r v s <;> rw [h]
  cases r <;> rfl

theorem takeCut_tq : (takeCut s).2.tq = s.tq := by
  obtain ⟨p, n, h⟩ := takeCut_state s
  rw [h]

theorem askObserve_tq (p : Buf) (q : Int) : (askObserve p q s).2.tq = s.tq := by
  obtain ⟨a, r, -, h⟩ | ⟨-, h⟩ := askObserve_cases p q s <;> rw [h]

theorem reinitRadio_tq : (reinitRadio s).tq = s.tq := by
  obtain ⟨a, r, -, h⟩ | ⟨-, h⟩ := askInitialize_cases s <;>
    (simp only [reinitRadio, h]; split <;> rfl)

theorem stopListening_tq : (stopListening s).tq = s.tq := by
  unfold stopListening
  split <;> rfl

theorem rawDraw_tq : (rawDraw s).2.tq = s.tq := by
  unfold rawDraw
  split <;> rfl

/-! ## Sends (R279) -/

theorem runSend_keeps_entries (who : Nat) (dest : Addr) (n : Nat) (ps : List Buf) :
    s.tq.Sublist (runSend who dest n ps s).tq := by
  induction ps generalizing n s with
  | nil => rw [runSend_nil]; exact .refl _
  | cons p ps ih =>
    cases n with
    | zero => exact .refl _
    | succ n =>
      have henq := enqueue_keeps_entries s p dest .low false
      rw [runSend_cons]
      split
      · exact henq.trans (ih _ n)
      · exact henq

theorem startSend_keeps_entries (dest : Addr) (ps : List Buf) : s.tq.Sublist (startSend dest ps s).tq := by
  have hsend := runSend_keeps_entries (takeCut s).2 s.issuer dest ((takeCut s).1.getD ps.length) ps
  rwa [takeCut_tq] at hsend

end Operations

/-! ## Sub-steps -/

/-- The sub-steps that remove no entry, and never lead to one that does. A poll can lead to an acknowledgement, a
transmission to a mark, a handler to either; whether a routing does, the packet's type says. -/
def Micro.removesNone : Micro → Bool
  | .accept _ | .ack _ | .leave _ | .peek _ | .stopListen | .reinit | .setSt _ | .finish => true
  | .clean _ | .handler _ | .poll | .route _ | .ackp _ | .next _ | .dropEntry _ | .transmit .. | .mark .. => false

/-- What a sub-step that starts in `s` answers keeps the entries, and so do the sub-steps it adds. -/
def KeepsEntries (s : State) (r : State × List Micro) : Prop := s.tq.Sublist r.1.tq ∧ ∀ m ∈ r.2, m.removesNone = true

section SubSteps

variable (s : State)

/-- A sub-step that does not touch the queue. -/
theorem keepsEntries_of_tq {s : State} {r : State × List Micro} (htq : r.1.tq = s.tq)
    (hms : ∀ m ∈ r.2, m.removesNone = true) : KeepsEntries s r := ⟨htq ▸ .refl _, hms⟩

theorem enqueueAck_keeps_entries (p : Buf) : s.tq.Sublist (enqueueAck p s).tq := by
  have henq := enqueue_keeps_entries s
    (pktOrEmpty (encodePkt s [seqOf p] s.params.tAck false false (localAddr s) (srcOf p))) (srcOf p) .highest false
  unfold enqueueAck
  dsimp only
  split <;> exact henq

theorem peekAndDecide_keepsEntries (now : Ticks) : KeepsEntries s (peekAndDecide now s) := by
  unfold peekAndDecide
  dsimp only
  split
  · exact keepsEntries_of_tq rfl (by simp [Micro.removesNone])
  · split <;> exact keepsEntries_of_tq rfl (by simp [Micro.removesNone])

theorem microStep_keepsEntries {m : Micro} (hm : m.removesNone = true) : KeepsEntries s (microStep m s) := by
  have hnone : ∀ m ∈ ([] : List Micro), m.removesNone = true := fun _ h => absurd h List.not_mem_nil
  cases m with
  | accept p => exact keepsEntries_of_tq ((congrArg State.tq (deliverPkt_eq p s)).trans (acceptPkt_tq s (srcOf p) p)) hnone
  | ack p => exact ⟨enqueueAck_keeps_entries s p, hnone⟩
  | leave now => exact keepsEntries_of_tq (congrArg State.tq (leaveListening_eq now s) :) hnone
  | peek now => exact peekAndDecide_keepsEntries s now
  | stopListen => exact keepsEntries_of_tq (stopListening_tq s) hnone
  | reinit => exact keepsEntries_of_tq (reinitRadio_tq s) hnone
  | setSt st => exact keepsEntries_of_tq rfl hnone
  | finish => exact keepsEntries_of_tq rfl hnone
  | _ => exact absurd hm (by simp [Micro.removesNone])

/-! ## Runs of sub-steps -/

theorem drive_keeps_entries (n : Nat) (ms : List Micro) (hms : ∀ m ∈ ms, m.removesNone = true) :
    s.tq.Sublist (drive n ms s).tq := by
  induction n generalizing ms s with
  | zero => cases ms <;> exact .refl _
  | succ n ih =>
    cases ms with
    | nil => exact .refl _
    | cons m ms =>
      obtain ⟨hm, hms⟩ := List.forall_mem_cons.1 hms
      obtain ⟨hstep, hnew⟩ := microStep_keepsEntries s hm
      exact hstep.trans (ih _ _ (List.forall_mem_append.2 ⟨hnew, hms⟩))

/-- Sub-steps that start with one that keeps the entries, wherever they are interrupted. -/
theorem startTick_keeps_entries {m : Micro} {t : State} (hm : KeepsEntries (takeCut s).2 (microStep m (takeCut s).2))
    (h : startTick [m] s = .next t) : s.tq.Sublist t.tq := by
  obtain ⟨hstep, hnew⟩ := hm
  obtain ⟨n, hn⟩ := Nat.exists_eq_succ_of_ne_zero (runLength_pos (takeCut s).1).ne'
  unfold startTick at h
  split at h
  · cases h
    rw [runTick, hn, Nat.succ_eq_add_one, drive_cons, List.append_nil, ← takeCut_tq s]
    exact hstep.trans (drive_keeps_entries _ n _ hnew)
  · cases h

/-! ## Received packets that are no acknowledgement (R267 to R269) -/

theorem ackSteps_removesNone (p : Buf) : ∀ m ∈ ackSteps p, m.removesNone = true := by
  unfold ackSteps
  split <;> simp [Micro.removesNone]

theorem routeByType_keepsEntries (known : Bool) {p : Buf} (hack : typeOf p ≠ s.params.tAck) :
    KeepsEntries s (routeByType known p s) := by
  have hsteps := ackSteps_removesNone p
  simp only [routeByType, if_neg hack]
  split
  · exact keepsEntries_of_tq rfl hsteps
  · split
    · exact keepsEntries_of_tq rfl (by simp)
    · exact keepsEntries_of_tq rfl (List.forall_mem_cons.2 ⟨rfl, hsteps⟩)

theorem routePkt_keepsEntries {p : Buf} (hack : typeOf p ≠ s.params.tAck) : KeepsEntries s (routePkt p s) := by
  unfold routePkt
  split
  · exact keepsEntries_of_tq rfl (by simp)
  · split
    · have hparams := (askObserve_effect ∅ s p s.rx.quality).params
      have hroute := routeByType_keepsEntries (askObserve p s.rx.quality s).2 (askObserve p s.rx.quality s).1
        (hparams.symm ▸ hack)
      rwa [KeepsEntries, askObserve_tq] at hroute
    · exact keepsEntries_of_tq rfl (by simp)

theorem routeReceived_keeps_entries {p : Buf} {t : State} (hack : typeOf p ≠ s.params.tAck)
    (h : routeReceived p s = .next t) : s.tq.Sublist t.tq := by
  have hparams := (takeCut_effect ∅ s).params
  exact startTick_keeps_entries s (routePkt_keepsEntries _ (hparams.symm ▸ hack)) h

/-! ## Handlers (R262 to R264, R271) -/

theorem enterListen_keepsEntries (now : Ticks) : KeepsEntries s (enterListen now s) := by
  refine keepsEntries_of_tq ?_ (by simp [enterListen, Micro.removesNone])
  unfold enterListen
  dsimp only
  rw [rawDraw_tq]
  split <;> rfl

theorem enterTransmit_keepsEntries (now : Ticks) : KeepsEntries s (enterTransmit now s) := by
  unfold enterTransmit
  split <;> exact keepsEntries_of_tq rfl (by simp [Micro.removesNone])

/-- The handlers that neither poll nor transmit. -/
theorem handlerOf_keepsEntries {st : SchedState} (now : Ticks) (hlisten : st ≠ .listening)
    (htransmit : st ≠ .transmitting) : KeepsEntries s (handlerOf st now s) := by
  cases st with
  | init => exact keepsEntries_of_tq rfl (by simp [handlerOf, Micro.removesNone])
  | enterListen => exact enterListen_keepsEntries s now
  | enterTransmit => exact enterTransmit_keepsEntries s now
  | listening => exact absurd rfl hlisten
  | transmitting => exact absurd rfl htransmit

theorem runHandler_keeps_entries {st : SchedState} {now : Ticks} {t : State} (hlisten : st ≠ .listening)
    (htransmit : st ≠ .transmitting) (h : runHandler st now s = .next t) : s.tq.Sublist t.tq := by
  refine startTick_keeps_entries { s with st := st } ?_ h
  have hst : (takeCut { s with st := st }).2.st = st := (takeCut_effect ∅ _).st_eq (by simp)
  simp only [microStep, hst]
  exact handlerOf_keepsEntries _ now hlisten htransmit

end SubSteps

/-! ## Operations (R204) -/

section Exec

variable {s t : State}

/-- An operation that answers on the port and touches nothing else. -/
theorem answer_keeps_entries {r : Result} (hr : ∃ op c d, r = .next (finish op c d s)) (h : r = .next t) :
    s.tq.Sublist t.tq := by
  obtain ⟨op, c, d, rfl⟩ := hr
  cases h
  exact .refl _

theorem enqueueCmd_keeps_entries {p : Buf} {dest : Addr} {prio : Prio} {droppable : Bool}
    (h : enqueueCmd p dest prio droppable s = .next t) : s.tq.Sublist t.tq := by
  cases h
  exact enqueue_keeps_entries s p dest prio droppable

theorem execLsSend_keeps_entries {data : Buf} {type : PType} {dest : Byte} {requireAck allowDrop : Bool}
    (h : execLsSend data type dest requireAck allowDrop s = .next t) : s.tq.Sublist t.tq := by
  have hroom := sendRoom_tq s type allowDrop (chunksOf s.params.maxPayload data).length
  unfold execLsSend at h
  split at h
  · cases h; exact .refl _
  · split at h
    · cases h; exact .refl _
    · split at h
      · cases h; exact .refl _
      · dsimp only at h
        split at h
        · cases h
          exact hroom ▸ startSend_keeps_entries _ _ _
        · cases h
          exact hroom ▸ .refl _

end Exec

/-- Settles O28: every operation the rule does not name is of one of the kinds above. -/
theorem entriesLeaveOnlyByRule : Obligations.EntriesLeaveOnlyByRule := by
  intro i s t hexec
  refine ⟨?_, fun hnext hmark hrmkey hclean hackp hhdr htick hlisten htransmit hreset => ?_⟩
  · rintro n rfl
    cases hexec
    exact nextSendable_length_tq s n
  cases i with
  | pktEncode | pktToWire | pktFromWire => exact answer_keeps_entries ⟨_, _, _, rfl⟩ hexec
  | pktCsum p => exact answer_keeps_entries (execPktCsum_answers s p) hexec
  | pktCheck p => exact answer_keeps_entries (execPktCheck_answers s p) hexec
  | pktFrag data type qos src dst => exact answer_keeps_entries (execPktFrag_answers s data type qos src dst) hexec
  | cfgRd reg => exact answer_keeps_entries (execCfgRd_answers s reg) hexec
  | tqEnq | prioLow | prioHigh | prioHighest => exact enqueueCmd_keeps_entries hexec
  | tqPeek now => cases hexec; exact .refl _
  | rtAccept a p => cases hexec; exact acceptPkt_tq s a p ▸ .refl _
  | cfgWr reg value => cases hexec; exact cfgWrite_tq s reg value ▸ .refl _
  | lsSend => exact execLsSend_keeps_entries hexec
  | tPing | tOta | tData | tAck | tId | hdrReserved5 | hdrReserved6 | hdrReserved7 =>
    exact routeReceived_keeps_entries s (hhdr rfl) hexec
  | stInit | stEnterListen | stEnterTransmit =>
    exact runHandler_keeps_entries s SchedState.noConfusion SchedState.noConfusion hexec
  | tqNext n => exact absurd rfl (hnext n)
  | tqMark p n => exact absurd rfl (hmark p n)
  | tqRmkey dest seq => exact absurd rfl (hrmkey dest seq)
  | tqClean n => exact absurd rfl (hclean n)
  | ackp n => exact absurd rfl (hackp n)
  | lsTick n => exact absurd rfl (htick n)
  | stListening n => exact absurd rfl (hlisten n)
  | stTransmitting n => exact absurd rfl (htransmit n)
  | lsReset => exact absurd rfl hreset

end Sys2Proof.Machine
end

section
/-! SUPPORT. The obligations on `RT.ACCEPT` of a duplicate, of a message in one packet and of the packet that closes a run
(R231 to R233, R235, R236, R239). -/

namespace Sys2Proof.Machine

/-- `RT.ACCEPT` completes with what the tracker answers (R36, R231). -/
theorem exec_rtAccept (a : Addr) (p : Buf) (s : State) : exec (.rtAccept a p) s =
    .next (finish opRtAccept (acceptPkt a p s).1.code (.optMsg (acceptPkt a p s).1.msg) (acceptPkt a p s).2) := rfl

/-! ## Duplicates (R232, R239) -/

/-- Settles O29. -/
theorem rtDuplicateIsIgnored : Obligations.RtDuplicateIsIgnored := by
  intro a p s hvalid hlast
  obtain ⟨-, -, h⟩ | ⟨hnew, -⟩ := acceptPkt_cases a p s
  · rw [exec_rtAccept, h]
    simp [finish, emit, raise, logRec, fltMask, opRtAccept]
  · exact absurd ⟨hvalid, hlast.symm⟩ hnew

/-- Whatever the branch, the tracker remembers the packet it was handed: a new one is written as its last (R231), a duplicate
stands there already. -/
theorem acceptPkt_remembers (a : Addr) (p : Buf) (s : State) :
    (trackerAt (acceptPkt a p s).2 a).lastValid = true ∧ (trackerAt (acceptPkt a p s).2 a).last = p := by
  obtain ⟨hvalid, hlast, h⟩ | ⟨-, ⟨-, -, h⟩ | ⟨-, -, h⟩ | ⟨-, -, h⟩ | ⟨f, fs, -, -, h⟩⟩ := acceptPkt_cases a p s <;> rw [h]
  · exact ⟨hvalid, hlast.symm⟩
  all_goals simp [trackerAt]

/-- Settles O33: the first copy is remembered, so the second is a duplicate. Its `lock := .free` changes nothing, by
unfolding: the first, atomic too, left the lock free. -/
theorem secondCopyIsSuppressed : Obligations.SecondCopyIsSuppressed := by
  intro a p s
  refine ⟨_, exec_rtAccept a p s, ?_⟩
  obtain ⟨hvalid, hlast⟩ := acceptPkt_remembers a p s
  exact rtDuplicateIsIgnored a p _ hvalid hlast

/-! ## Unsplit packets (R235, R236) -/

/-- Settles O31. -/
theorem rtSinglePacketIsReturned : Obligations.RtSinglePacketIsReturned := by
  intro a p s tr missing hnew hunsplit hempty
  have hlogs : missingLogs (trackerAt s a) p = missing := rfl
  obtain ⟨hvalid, hlast, -⟩ | ⟨-, ⟨hsplit, -⟩ | ⟨hsplit, -⟩ | ⟨-, -, h⟩ | ⟨f, fs, -, hopen, -⟩⟩ := acceptPkt_cases a p s
  · exact absurd ⟨hvalid, hlast.symm⟩ hnew
  · simp [hunsplit] at hsplit
  · simp [hunsplit] at hsplit
  · rw [exec_rtAccept, h, hlogs]
    simp [finish, emit, setTracker, opRtAccept]
  · exact absurd (hopen.symm.trans hempty) (List.cons_ne_nil f fs)

/-- The test behind `W_FRAGTYPE` (R235). -/
theorem any_typeOf_ne_iff (run : List Buf) (ty : PType) :
    (run.any fun g => typeOf g != ty) = true ↔ ∃ g ∈ run, typeOf g ≠ ty := by
  simp

/-- Settles O32: the model's tests behind the two warnings are the statement's conditions. -/
theorem rtFinalFragmentClosesRun : Obligations.RtFinalFragmentClosesRun := by
  intro a p f fs s tr missing run badType badSeq hnew hunsplit hfrags
  have hlogs : missingLogs (trackerAt s a) p = missing := rfl
  have htype : (if run.any fun g => typeOf g != typeOf f then [.log .wFragType [(srcOf p).toNat]] else []) = badType :=
    if_congr (any_typeOf_ne_iff run (typeOf f)) rfl rfl
  have hseq : (if contiguous run then [] else [.log .wFragSeq [(srcOf p).toNat]]) = badSeq :=
    if_congr (contiguous_iff run) rfl rfl
  obtain ⟨hvalid, hlast, -⟩ | ⟨-, ⟨hsplit, -⟩ | ⟨hsplit, -⟩ | ⟨-, hempty, -⟩ | ⟨f', fs', -, hopen, h⟩⟩ := acceptPkt_cases a p s
  · exact absurd ⟨hvalid, hlast.symm⟩ hnew
  · simp [hunsplit] at hsplit
  · simp [hunsplit] at hsplit
  · exact absurd (hfrags.symm.trans hempty) (List.cons_ne_nil f fs)
  · obtain ⟨rfl, rfl⟩ := List.cons.inj (hfrags.symm.trans hopen)
    rw [exec_rtAccept, h, hlogs, htype, hseq]
    simp [finish, emit, setTracker, opRtAccept, run]

end Sys2Proof.Machine
end

section
/-! SUPPORT. Runs of the scheduler to the end: a run of sub-steps in two parts, what `LS.TICK` and the state rows run when no
script interrupts them, and where `ST` is afterwards. Settles the obligations on the tick (R261, R278) and on the handler
`INIT` (R262). -/

namespace Sys2Proof.Machine

/-! ## Runs of sub-steps to the end -/

/-- The sub-steps that stand after others are run where these end. -/
theorem runAll_append (ms ms' : List Micro) (s : State) : runAll (ms ++ ms') s = runAll ms' (runAll ms s) := by
  induction hc : cost ms using Nat.strong_induction_on generalizing ms s with
  | _ c ih =>
    subst hc
    cases ms with
    | nil =>
      have h := runAll_withControl ms' s
      exact (h s.control).trans (h { s.control with tick := [] }).symm
    | cons m ms =>
      rw [List.cons_append, runAll_cons, runAll_cons, ← List.append_assoc]
      exact ih _ (cost_step_le m ms s) _ _ rfl

/-- A sub-step alone goes on with the sub-steps it adds. -/
theorem runAll_singleton (m : Micro) (s : State) : runAll [m] s = runAll (microStep m s).2 (microStep m s).1 := by
  rw [runAll_cons, List.append_nil]

theorem runAll_of_step {m : Micro} {s u : State} {ms : List Micro} (h : microStep m s = (u, ms)) :
    runAll [m] s = runAll ms u := by
  rw [runAll_singleton, h]

/-- A run to the end notes that nothing is left, which changes nothing where nothing was. -/
theorem runAll_nil_of_idle {s : State} (h : s.tick = []) : runAll [] s = s := by
  rw [runAll, drive_nil, ← h]

/-- A sub-step that adds none. -/
theorem runAll_of_last {m : Micro} {s u : State} (h : microStep m s = (u, [])) (hu : u.tick = []) : runAll [m] s = u := by
  rw [runAll_of_step h, runAll_nil_of_idle hu]

/-- The write of `ST` (R87 (5)). -/
theorem runAll_setSt (st : SchedState) {s : State} (h : s.tick = []) : runAll [.setSt st] s = { s with st := st } :=
  runAll_of_last rfl h

/-! ## What the state rows and `LS.TICK` run (R261) -/

section Uncut

variable {s : State} {cs : List (Option Nat)} (now : Ticks) (htick : s.tick = []) (hcuts : s.preempt = none :: cs)

include htick hcuts

/-- A state row runs the handler of its state, from the state it names. -/
theorem exec_handler (st : SchedState) :
    exec (instrOfState st now) s = .next (runAll [.handler now] { s with preempt := cs, st := st }) := by
  have hrow : exec (instrOfState st now) s = runHandler st now s := by cases st <;> rfl
  rw [hrow, runHandler, startTick_uncut _ { s with st := st } cs htick hcuts, drive_eq_runAll (by simp)]

/-- A state row goes on with the sub-steps the first part of its handler adds. -/
theorem exec_handler_of_first {st : SchedState} {u : State} {ms : List Micro}
    (h : handlerOf st now { s with preempt := cs, st := st } = (u, ms)) :
    exec (instrOfState st now) s = .next (runAll ms u) := by
  rw [exec_handler now htick hcuts st, runAll_of_step (m := .handler now) (s := { s with preempt := cs, st := st }) h]

/-- `LS.TICK` runs `TQ.CLEAN`, then the handler of `ST`, then it completes. -/
theorem exec_lsTick :
    exec (.lsTick now) s =
      .next (finish opLsTick .ok .none (runAll [.handler now] (cleanUp now { s with preempt := cs }).2)) := by
  have hclean : runAll [.clean now, .handler now, .finish] { s with preempt := cs } =
      runAll ([.handler now] ++ [.finish]) (cleanUp now { s with preempt := cs }).2 := runAll_cons _ _ _
  have hrun : exec (.lsTick now) s = startTick [.clean now, .handler now, .finish] s := rfl
  rw [hrun, startTick_uncut _ s cs htick hcuts, drive_eq_runAll (by simp), hclean, runAll_append,
    runAll_of_last (m := .finish) rfl (runAll_tick _ _)]

end Uncut

/-- Settles O35: `TQ.CLEAN` reads neither `ST` nor the script of interruptions, so the row run after it starts where the
tick's handler does. -/
theorem lsTickCleansThenRunsHandler : Obligations.LsTickCleansThenRunsHandler := by
  intro now s cs htick hcuts
  refine ⟨runAll [.handler now] (cleanUp now { s with preempt := cs }).2, ?_, exec_lsTick now htick hcuts⟩
  rw [exec_handler (cs := cs) now (by rw [cleanUp_eq]; exact htick) (by rw [cleanUp_eq]; exact hcuts), cleanUp_eq,
    cleanUp_eq]

/-- Settles O37: the handler's one sub-step is the write of `ST`. -/
theorem stInitGoesToEnterListen : Obligations.StInitGoesToEnterListen := by
  intro now s cs htick hcuts
  have hrun := exec_handler_of_first (st := .init) now htick hcuts rfl
  rwa [runAll_setSt .enterListen (by exact htick)] at hrun

/-! ## Where `ST` goes (R278) -/

/-- The successors of a state in the table of R278. -/
def successors : SchedState → List SchedState
  | .init => [.enterListen]
  | .enterListen => [.listening]
  | .listening => [.enterTransmit, .listening]
  | .enterTransmit => [.enterListen, .enterTransmit, .transmitting]
  | .transmitting => [.enterTransmit, .enterListen]

/-- A sub-step whose additions end with the write of `ST` leaves what that writes. -/
theorem st_mem_of_setSt_last {m : Micro} {s : State} {sts : List SchedState}
    (h : ∃ ms st, (microStep m s).2 = ms ++ [.setSt st] ∧ st ∈ sts) : (runAll [m] s).st ∈ sts := by
  obtain ⟨ms, st, hms, hst⟩ := h
  rw [runAll_singleton, hms, runAll_append, runAll_setSt st (runAll_tick ms _)]
  exact hst

/-- The peek decides for a successor of `ENTER_TRANSMIT` (R271, R273, R274). -/
theorem runAll_peek_st (now : Ticks) (s : State) : (runAll [.peek now] s).st ∈ successors .enterTransmit := by
  refine st_mem_of_setSt_last ?_
  simp only [microStep, peekAndDecide]
  split_ifs
  · exact ⟨[.stopListen], _, rfl, by decide⟩
  · exact ⟨[], _, rfl, by decide⟩
  · exact ⟨[], _, rfl, by decide⟩

/-- A transmission ends in a successor of `TRANSMITTING` (R276, R277). -/
theorem runAll_transmit_st (p w : Buf) (now : Ticks) (s : State) :
    (runAll [.transmit p w now] s).st ∈ successors .transmitting := by
  refine st_mem_of_setSt_last ?_
  simp only [microStep, transmitPkt]
  split
  · refine ⟨[.mark p now], _, rfl, ?_⟩
    split <;> decide
  · exact ⟨[.reinit], _, rfl, by decide⟩

/-- An attempt, made or not, ends in a successor of `TRANSMITTING` (R275). -/
theorem runAll_next_st (now : Ticks) (s : State) : (runAll [.next now] s).st ∈ successors .transmitting := by
  have hnext : (∃ ms st, (microStep (.next now) s).2 = ms ++ [.setSt st] ∧ st ∈ successors .transmitting) ∨
      ∃ p w, (microStep (.next now) s).2 = [.transmit p w now] := by
    simp only [microStep, nextToSend]
    split
    · exact .inl ⟨[], _, rfl, by decide⟩
    · split
      · exact .inr ⟨_, _, rfl⟩
      · exact .inl ⟨[.dropEntry _], _, rfl, by decide⟩
  obtain hlast | ⟨p, w, hsend⟩ := hnext
  · exact st_mem_of_setSt_last hlast
  · rw [runAll_singleton, hsend]
    exact runAll_transmit_st p w now _

/-- The listening handler polls and routes, and then leaves (R265, R266). -/
theorem runAll_poll_leave (now : Ticks) (s : State) :
    runAll [.poll, .leave now] s = leaveListening now (runAll [.poll] s) := by
  have hpoll : runAll ([.poll] ++ [.leave now]) s = runAll [.leave now] (runAll [.poll] s) := runAll_append _ _ _
  refine hpoll.trans (runAll_of_last rfl ?_)
  rw [leaveListening_eq]
  exact runAll_tick _ _

/-- The starvation guard decides for a successor of `ENTER_TRANSMIT`, or the peek does (R271, R272). -/
theorem runAll_enterTransmit_st (now : Ticks) {s : State} (hst : s.st = .enterTransmit) :
    (runAll [.handler now] s).st ∈ successors .enterTransmit := by
  by_cases hstarved : starved s now = true
  · refine st_mem_of_setSt_last ⟨[], if gapOk s now then .enterListen else .enterTransmit, ?_, ?_⟩
    · simp [microStep, handlerOf, hst, enterTransmit, hstarved]
    · split <;> decide
  · have hpeek : microStep (.handler now) s = (s, [.peek now]) := by
      simp [microStep, handlerOf, hst, enterTransmit, hstarved]
    rw [runAll_of_step hpeek]
    exact runAll_peek_st now s

/-- Every handler ends in a successor of its state. -/
theorem runAll_handler_st (now : Ticks) (s : State) : (runAll [.handler now] s).st ∈ successors s.st := by
  cases hst : s.st with
  | init => exact st_mem_of_setSt_last ⟨[], .enterListen, by simp [microStep, handlerOf, hst], by decide⟩
  | enterListen =>
    exact st_mem_of_setSt_last ⟨[], .listening, by simp [microStep, handlerOf, hst, enterListen], by decide⟩
  | listening =>
    have hpoll : microStep (.handler now) s = ({ s with tRx := now }, [.poll, .leave now]) := by
      simp [microStep, handlerOf, hst]
    rw [runAll_of_step hpoll, runAll_poll_leave, leaveListening_eq]
    dsimp only
    split <;> decide
  | enterTransmit => exact runAll_enterTransmit_st now hst
  | transmitting =>
    have hnext : microStep (.handler now) s = (s, [.next now]) := by simp [microStep, handlerOf, hst]
    rw [runAll_of_step hnext]
    exact runAll_next_st now s

/-- Settles O36: the handler runs from the state `TQ.CLEAN` leaves, which has the same `ST`. -/
theorem tickFollowsTransitionTable : Obligations.TickFollowsTransitionTable := by
  intro now s cs htick hcuts
  refine ⟨_, exec_lsTick now htick hcuts, runAll_tick _ _, ?_⟩
  have hst := runAll_handler_st now (cleanUp now { s with preempt := cs }).2
  rw [cleanUp_eq] at hst ⊢
  cases h : s.st <;> simpa [h, successors] using hst

end Sys2Proof.Machine
end

section
/-! SUPPORT. The handlers `ENTER_LISTEN`, `LISTENING` and `ENTER_TRANSMIT` (R263 to R267, R271 to R274). Settles the
obligations on them. -/

namespace Sys2Proof.Machine

/-! ## `ENTER_LISTEN` (R263, R264) -/

/-- A draw comes from the script while it holds one (R264). -/
theorem rawDraw_of_script {s : State} {d : Ticks} {ds : List Ticks} (h : s.draws = d :: ds) :
    rawDraw s = (d, { s with draws := ds }) := by
  rw [rawDraw, h]

/-- A draw changes the script or the counter of free values only. -/
theorem rawDraw_state (s : State) :
    (rawDraw s).2 = { s with draws := (rawDraw s).2.draws, free := (rawDraw s).2.free } := by
  unfold rawDraw
  split <;> rfl

/-- A draw does not depend on the listening mode. -/
theorem rawDraw_listening (s : State) (o : List Out) (f : Bool) :
    rawDraw { s with out := o, fListen := f } = ((rawDraw s).1, { (rawDraw s).2 with out := o, fListen := f }) := by
  unfold rawDraw
  dsimp only
  split <;> rfl

/-- The whole handler but the write of `ST`. -/
theorem enterListen_eq (now : Ticks) (s : State) :
    enterListen now s =
      ({ s with
          fListen := true, tListen := now, jit := jitterOf (minListen s) (rawDraw s).1, fForce := false
          draws := (rawDraw s).2.draws, free := (rawDraw s).2.free
          out := s.out ++ if s.fListen then [] else [.radioEnterPassiveListen] },
        [.setSt .listening]) := by
  have hmode : (if s.fListen then s else { emit .radioEnterPassiveListen s with fListen := true }) =
      { s with out := s.out ++ if s.fListen then [] else [.radioEnterPassiveListen], fListen := true } := by
    cases h : s.fListen with
    | false => simp [emit, h]
    | true => simp [← h]
  simp only [enterListen, hmode, rawDraw_listening]
  rw [rawDraw_state s]
  rfl

/-- Settles O38: the jitter is bounded, and a value in the range is the jitter of itself as a draw. -/
theorem stEnterListenStartsWindow : Obligations.StEnterListenStartsWindow := by
  intro now s cs htick hcuts
  let s1 : State := { s with preempt := cs, st := .enterListen }
  have hrun := exec_handler_of_first (st := .enterListen) now htick hcuts (enterListen_eq now s1)
  rw [runAll_setSt .listening (by exact htick)] at hrun
  refine ⟨_, _, _, jitterOf_le _ (rawDraw s1).1, fun d ds hdraws => ?_, hrun⟩
  rw [rawDraw_of_script (s := s1) hdraws]
  exact ⟨rfl, rfl, jitterOf_self _ d⟩

/-! ## `LISTENING` (R265 to R267) -/

/-- The handler polls, routes what it received, and leaves; it was entered at `now`. -/
theorem exec_stListening {s : State} {cs : List (Option Nat)} (now : Ticks) (htick : s.tick = [])
    (hcuts : s.preempt = none :: cs) :
    exec (.stListening now) s =
      .next (leaveListening now (runAll [.poll] { s with preempt := cs, st := .listening, tRx := now })) := by
  rw [← runAll_poll_leave]
  exact exec_handler_of_first (st := .listening) now htick hcuts rfl

section Poll

variable {s : State} {ps : List PollAnswer}

/-- The poll's answer comes from the script while it holds one (R265). -/
theorem askPoll_of_script {a : PollAnswer} (hpolls : s.polls = a :: ps) :
    askPoll s = (a, { s with polls := ps, out := s.out ++ [.radioPollReceive] }) := by
  rw [askPoll, hpolls]
  rfl

/-- A poll that brings no packet (R265). -/
theorem pollRadio_of_event {ev : PollAnswer} (hpolls : s.polls = ev :: ps) (hev : ∀ w q, ev ≠ .received w q) :
    pollRadio s =
      ({ s with
          polls := ps
          out := s.out ++ [.radioPollReceive] ++
            (if ev = .timeout then [.radioEnterPassiveListen]
              else if ev = .unknown then [.log .wRadioUnk [], .radioEnterPassiveListen] else []) },
        []) := by
  cases ev with
  | received w q => exact absurd rfl (hev w q)
  | timeout | noEvent | unknown => simp [pollRadio, askPoll_of_script hpolls, emit, raise, logRec, fltMask]

/-- A poll that brings a string which `PKT.FROMWIRE` refuses (R267). -/
theorem pollRadio_of_refused {w : Buf} {q : Int} {r : Refuse} (hpolls : s.polls = .received w q :: ps)
    (hwire : fromWire w (linkKey s) = .error r) :
    pollRadio s =
      ({ s with
          polls := ps, rx := { s.rx with quality := q }
          out := s.out ++ [.radioPollReceive] ++ [.log r.code r.info] },
        []) := by
  have hanswer : fromWire w (linkKey { s with polls := ps, out := s.out ++ [.radioPollReceive] }) = .error r := hwire
  simp only [pollRadio, askPoll_of_script hpolls, hanswer, dropInbound, logRec, emit]

/-- A poll that brings a packet (R267). -/
theorem pollRadio_of_packet {w p : Buf} {q : Int} (hpolls : s.polls = .received w q :: ps)
    (hwire : fromWire w (linkKey s) = .ok p) :
    pollRadio s =
      ({ s with polls := ps, rx := { s.rx with quality := q }, out := s.out ++ [.radioPollReceive] }, [.route p]) := by
  have hanswer : fromWire w (linkKey { s with polls := ps, out := s.out ++ [.radioPollReceive] }) = .ok p := hwire
  simp only [pollRadio, askPoll_of_script hpolls, hanswer]

end Poll

/-- Settles O39. -/
theorem stListeningWithoutPacket : Obligations.StListeningWithoutPacket := by
  intro now s ev ps cs htick hcuts hpolls hev
  rw [exec_stListening now htick hcuts,
    runAll_of_last (m := .poll)
      (pollRadio_of_event (s := { s with preempt := cs, st := .listening, tRx := now }) hpolls hev) htick,
    leaveListening_eq]
  rfl

/-- `PKT.FROMWIRE` accepts nothing shorter than a header (R157). -/
theorem length_of_acceptBytes {b p : Buf} (h : acceptBytes b = .ok p) : 5 ≤ p.length := by
  rw [acceptBytes_eq] at h
  split_ifs at h with hshort hpad
  obtain rfl := Except.ok.inj h
  exact Nat.le_of_not_lt hshort

theorem length_of_fromWire {w p : Buf} {key : Option Buf} (h : fromWire w key = .ok p) : 5 ≤ p.length := by
  cases hhex : unhex w with
  | none => simp [fromWire_of_badHex hhex] at h
  | some b =>
    cases key with
    | none => exact length_of_acceptBytes ((fromWire_none hhex).symm.trans h)
    | some k =>
      rw [fromWire_some hhex] at h
      split_ifs at h
      exact length_of_acceptBytes h

/-- A header row routes its encoding to the end when the script does not interrupt it. -/
theorem exec_hdr_uncut {i : Instr} {s : State} {cs : List (Option Nat)} (hfmt : i.format = .hdr) (htick : s.tick = [])
    (hcuts : s.preempt = none :: cs) : exec i s = .next (runAll [.route (encode i)] { s with preempt := cs }) := by
  rw [(exec_hdr i s hfmt).2, routeReceived, startTick_uncut _ s cs htick hcuts, drive_eq_runAll (by simp)]

/-- Settles O40: an accepted string is the encoding of the header row it decodes to, so the poll and the row leave the same
sub-step to run. -/
theorem stListeningRoutesPacket : Obligations.StListeningRoutesPacket := by
  intro now s w q ps cs htick hcuts hpolls s1 leave
  have hleave : ∀ u, leave u = leaveListening now u := fun u => (leaveListening_eq now u).symm
  let s2 : State := { s with preempt := cs, st := .listening, tRx := now }
  refine ⟨fun r hwire => ?_, fun p hwire => ?_⟩
  · rw [exec_stListening now htick hcuts,
      runAll_of_last (m := .poll) (pollRadio_of_refused (s := s2) hpolls hwire) htick, hleave]
  · obtain ⟨i, hdecode⟩ : ∃ i, decodeHdr p = .ok i :=
      ⟨_, (decodeHdr_eq_ok_iff p _).2 ⟨length_of_fromWire hwire, rfl⟩⟩
    obtain ⟨⟨hfmt, -⟩, hencode⟩ := decodeHdr_spells hdecode
    have hrow := exec_hdr_uncut (s := s1) hfmt htick hcuts
    rw [hencode] at hrow
    refine ⟨i, _, hdecode, hrow, ?_⟩
    rw [exec_stListening now htick hcuts, runAll_of_step (m := .poll) (pollRadio_of_packet (s := s2) hpolls hwire), hleave]

/-! ## `ENTER_TRANSMIT` (R271 to R274) -/

section EnterTransmit

variable {s : State} {now : Ticks}

/-- The starvation guard (R272). -/
theorem enterTransmit_of_starved (hstarved : starved s now = true) :
    enterTransmit now s = (s, [.setSt (if gapOk s now then .enterListen else .enterTransmit)]) := if_pos hstarved

/-- Not starved, the queue is peeked at (R271). -/
theorem enterTransmit_of_not_starved (hstarved : ¬starved s now = true) : enterTransmit now s = (s, [.peek now]) :=
  if_neg hstarved

/-- Some entry is sendable (R194). -/
theorem any_sendable_iff : (s.tq.any fun e => sendable e now) = true ↔ ∃ e ∈ s.tq, sendable e now = true :=
  List.any_eq_true

/-- A sendable entry is transmitted once the gap has elapsed, and waits for it otherwise (R273). -/
theorem peekAndDecide_of_waiting (hwaiting : ∃ e ∈ s.tq, sendable e now = true) :
    peekAndDecide now s =
      (release s, if gapOk s now then [.stopListen, .setSt .transmitting] else [.setSt .enterTransmit]) := by
  simp only [peekAndDecide, peek_eq, any_sendable_iff.2 hwaiting, Bool.true_and, Bool.not_true, Bool.false_and,
    Bool.false_eq_true, if_false]
  exact (apply_ite (Prod.mk (release s)) _ _ _).symm

/-- With nothing sendable the quiet period decides (R274). -/
theorem peekAndDecide_of_none (hnone : ¬∃ e ∈ s.tq, sendable e now = true) :
    peekAndDecide now s = (release s, [.setSt (if quiet s now then .enterListen else .enterTransmit)]) := by
  have hfalse : (s.tq.any fun e => sendable e now) = false := Bool.eq_false_iff.2 (mt any_sendable_iff.1 hnone)
  simp only [peekAndDecide, peek_eq, hfalse, Bool.false_and, Bool.not_false, Bool.true_and, Bool.false_eq_true, if_false]
  exact (apply_ite (fun st => (release s, [Micro.setSt st])) _ _ _).symm

/-- Leaving the listening mode (R273). -/
theorem stopListening_eq (s : State) :
    stopListening s =
      { s with fListen := false, out := s.out ++ if s.fListen then [.radioExitPassiveListen] else [] } := by
  unfold stopListening
  cases h : s.fListen with
  | false =>
    simp only [Bool.false_eq_true, if_false, List.append_nil]
    rw [← h]
  | true => simp [emit]

end EnterTransmit

/-- Settles O41: the guard comes before the peek, and the peek before the gap. -/
theorem stEnterTransmitDecides : Obligations.StEnterTransmitDecides := by
  intro now s cs htick hcuts gap starving waiting
  let s1 : State := { s with preempt := cs, st := .enterTransmit }
  have hgap : gapOk s1 now = true ↔ gap := gapOk_iff s1 now
  have hstarved : starved s1 now = true ↔ starving := starved_iff s1 now
  have hquiet : quiet s1 now = true ↔ s.params.quietPeriod ≤ (now - s.tRx).toNat := quiet_iff s1 now
  have hguard : starving → exec (.stEnterTransmit now) s =
      .next { s1 with st := if gapOk s1 now then .enterListen else .enterTransmit } := fun h => by
    have hrun := exec_handler_of_first (st := .enterTransmit) now htick hcuts
      (enterTransmit_of_starved (s := s1) (hstarved.2 h))
    rwa [runAll_setSt _ (by exact htick)] at hrun
  have hpeek : ¬starving → exec (.stEnterTransmit now) s = .next (runAll [.peek now] s1) := fun h =>
    exec_handler_of_first (st := .enterTransmit) now htick hcuts (enterTransmit_of_not_starved (s := s1) (mt hstarved.1 h))
  refine ⟨fun h hg => ?_, fun h hg => ?_, fun h hw hg => ?_, fun h hw hg => ?_, fun h hw => ?_⟩
  · rw [hguard h, if_pos (hgap.2 hg)]
  · rw [hguard h, if_neg (mt hgap.1 hg)]
  · rw [hpeek h, runAll_of_step (m := .peek now) (peekAndDecide_of_waiting (s := s1) hw), if_pos (hgap.2 hg), runAll_cons]
    simp only [microStep, List.nil_append, stopListening_eq]
    rw [runAll_setSt _ (by exact htick)]
    rfl
  · rw [hpeek h, runAll_of_step (m := .peek now) (peekAndDecide_of_waiting (s := s1) hw), if_neg (mt hgap.1 hg),
      runAll_setSt _ (by exact htick)]
    rfl
  · rw [hpeek h, runAll_of_step (m := .peek now) (peekAndDecide_of_none (s := s1) hw), runAll_setSt _ (by exact htick)]
    simp only [hquiet]
    rfl

end Sys2Proof.Machine
end

section
/-! SUPPORT. The handler `TRANSMITTING` (R275 to R277). Settles the obligations on it. -/

namespace Sys2Proof.Machine

/-! ## The wire form under the configured key (R156) -/

section Wire

variable {p : Buf} {s : State}

/-- A packet without a key, or of whole blocks, is put on the wire. -/
theorem toWire_linkKey_of_aligned (hlen : 5 ≤ p.length) (halign : s.cfgKeyEn = true → p.length % 16 = 0) :
    toWire p (linkKey s) = .ok (if s.cfgKeyEn then hex (enc (keyBytes s.cfgKey) p) else hex p) := by
  cases hkey : s.cfgKeyEn with
  | false => simp [linkKey, hkey, toWire_none hlen]
  | true => simp [linkKey, hkey, toWire_some hlen, halign hkey]

/-- With a key, a packet that is not of whole blocks is refused. -/
theorem toWire_linkKey_of_unaligned (hlen : 5 ≤ p.length) (hkey : s.cfgKeyEn = true) (halign : p.length % 16 ≠ 0) :
    toWire p (linkKey s) = .error ⟨.eAlign, [p.length]⟩ := by
  simp [linkKey, hkey, toWire_some hlen, halign]

end Wire

/-! ## The entry found (R195, R196) -/

/-- The packet an entry is handed over with: numbered and sealed when it was not yet. -/
def dispatchedPkt (e : Entry) (s : State) : Buf :=
  if e.seqAssigned then e.pkt else sealPkt (e.pkt.set 4 (s.seq[e.dest.toNat]'e.dest.isLt))

/-- The state after `TQ.NEXT` found `e` between `before` and `after`. -/
def dispatchedState (before after : List Entry) (e : Entry) (s : State) : State :=
  { s with
    seq := if e.seqAssigned then s.seq
      else s.seq.set e.dest.toNat (s.seq[e.dest.toNat]'e.dest.isLt + 1) e.dest.isLt
    tq := before ++ { e with pkt := dispatchedPkt e s, seqAssigned := true } :: after
    lock := .free }

theorem nextSendable_eq_dispatched {now : Ticks} {s : State} {before after : List Entry} {e : Entry}
    (hq : s.tq = before ++ e :: after) (hsend : sendable e now = true) (hbefore : ∀ x ∈ before, sendable x now = false) :
    nextSendable now s = (some (dispatchedPkt e s), dispatchedState before after e s) := by
  rw [nextSendable_of_first now s before after e hq hsend hbefore, dispatch_eq]
  rfl

/-- The state after the packet of that entry was handed to the radio as `w` (R275). -/
def handedState (before after : List Entry) (e : Entry) (w : Buf) (now : Ticks) (as : List Bool) (s : State) : State :=
  { dispatchedState before after e s with
    txAnswers := as, tTx := now, fTxSeen := true, out := s.out ++ [.radioTransmit w] }

/-- Number and seal keep the length. -/
theorem length_dispatchedPkt (e : Entry) (s : State) : (dispatchedPkt e s).length = e.pkt.length := by
  unfold dispatchedPkt
  split <;> simp

/-! ## The ends of the handler -/

section Ends

variable {s : State} {p : Buf} {b a : List Entry} {m : Entry} (htick : s.tick = [])

include htick

/-- The entry that cannot be put on the wire is removed (R275). -/
theorem runAll_dropEntry (st : SchedState) (hfirst : splitFirst (isDispatched p) s.tq = some (b, m, a)) :
    runAll [.dropEntry p, .setSt st] s = { s with tq := b ++ a, lock := .free, st := st } := by
  refine (drive_dropEntry 0 s p b a m st hfirst).trans ?_
  rw [htick]

/-- The entry that was transmitted is marked (R277). -/
theorem runAll_mark (now : Ticks) (st : SchedState) (hfirst : splitFirst (isDispatched p) s.tq = some (b, m, a)) :
    runAll [.mark p now, .setSt st] s =
      { s with
        tq := if qosOf m.pkt then b ++ { m with sentCount := bumpCount m, lastSent := now } :: a else b ++ a
        lock := .free, st := st } := by
  refine (drive_mark 0 s p now b a m st hfirst).trans ?_
  rw [htick]
  split <;> rfl

/-- The driver is initialised again (R276). -/
theorem runAll_reinit {ready : Bool} {is : List Bool} (st : SchedState) (hinit : s.initAnswers = ready :: is) :
    runAll [.reinit, .setSt st] s =
      { s with
        initAnswers := is, st := st
        out := s.out ++ [.radioInitialize s.cfgSf] ++ if ready then [] else [.log .eReinitFail []] } := by
  refine (drive_reinit 0 s ready is st hinit).trans ?_
  rw [htick]

end Ends

/-! ## The handler -/

section Transmitting

variable {s : State} {cs : List (Option Nat)} {now : Ticks} (htick : s.tick = []) (hcuts : s.preempt = none :: cs)

include htick hcuts

/-- The handler starts with `TQ.NEXT` (R275). -/
theorem exec_stTransmitting :
    exec (.stTransmitting now) s = .next (drive 4 [.next now] { s with preempt := cs, st := .transmitting }) :=
  exec_handler_of_first (st := .transmitting) now htick hcuts rfl

/-- Nothing sendable: the consistency fault (R275). -/
theorem exec_stTransmitting_of_none (hnone : ∀ e ∈ s.tq, sendable e now = false) :
    exec (.stTransmitting now) s = .next { s with
      preempt := cs, st := .enterTransmit, flt := s.flt ||| 0x01, lock := .free
      out := s.out ++ [.log .eNoSendable []] } := by
  let s0 : State := { s with preempt := cs, st := .transmitting }
  have hnext : microStep (.next now) s0 = (raise .eNoSendable [] (release s0), [.setSt .enterTransmit]) := by
    simp only [microStep, nextToSend, nextSendable_of_none (s := s0) hnone]
  rw [exec_stTransmitting htick hcuts, drive_eq_runAll (by simp), runAll_of_step hnext, runAll_setSt _ (by exact htick)]
  rfl

variable {before after : List Entry} {e : Entry} (hq : s.tq = before ++ e :: after) (hsend : sendable e now = true)
  (hbefore : ∀ x ∈ before, sendable x now = false)

include hq hsend hbefore

/-- The wire refuses the entry found: `E_ALIGN`, and the removal (R275). -/
theorem exec_stTransmitting_of_refused {r : Refuse} (hwire : toWire (dispatchedPkt e s) (linkKey s) = .error r) :
    exec (.stTransmitting now) s = .next (runAll [.dropEntry (dispatchedPkt e s), .setSt .enterTransmit]
      (raise .eAlign [(dispatchedPkt e s).length]
        (dispatchedState before after e { s with preempt := cs, st := .transmitting }))) := by
  let s0 : State := { s with preempt := cs, st := .transmitting }
  have hnext := nextSendable_eq_dispatched (s := s0) hq hsend hbefore
  rw [exec_stTransmitting htick hcuts, drive_next_error 3 s0 _ now _ r hnext hwire, drive_eq_runAll (by simp)]
  rfl

section Handed

variable {as : List Bool} {w : Buf} (hwire : toWire (dispatchedPkt e s) (linkKey s) = .ok w)

include hwire

/-- The entry found is handed to the radio (R275). -/
theorem exec_stTransmitting_of_wire : exec (.stTransmitting now) s = .next (
    drive 3 [.transmit (dispatchedPkt e s) w now]
      (dispatchedState before after e { s with preempt := cs, st := .transmitting })) := by
  let s0 : State := { s with preempt := cs, st := .transmitting }
  have hnext := nextSendable_eq_dispatched (s := s0) hq hsend hbefore
  rw [exec_stTransmitting htick hcuts, drive_next_ok 3 s0 _ now _ w hnext hwire]
  rfl

/-- FAILURE: `E_TXFAIL`, and the driver is initialised again (R276). -/
theorem exec_stTransmitting_of_failure {ready : Bool} {is : List Bool} (hanswers : s.txAnswers = false :: as)
    (hinit : s.initAnswers = ready :: is) :
    exec (.stTransmitting now) s = .next { handedState before after e w now as s with
      preempt := cs, st := .enterTransmit, flt := s.flt ||| 0x08, initAnswers := is
      out := s.out ++ [.radioTransmit w] ++
        [.log .eTxFail [(dstOf (dispatchedPkt e s)).toNat, (seqOf (dispatchedPkt e s)).toNat], .radioInitialize s.cfgSf] ++
        if ready then [] else [.log .eReinitFail []] } := by
  let s0 : State := { s with preempt := cs, st := .transmitting }
  let u : State := raise .eTxFail [(dstOf (dispatchedPkt e s)).toNat, (seqOf (dispatchedPkt e s)).toNat]
    (handedState before after e w now as s0)
  rw [exec_stTransmitting_of_wire htick hcuts hq hsend hbefore hwire,
    drive_transmit 2 (dispatchedState before after e s0) now _ w false as hanswers, if_neg Bool.false_ne_true,
    drive_eq_runAll (by simp)]
  refine congrArg _ ((runAll_reinit (s := u) htick .enterTransmit hinit).trans ?_)
  simp [u, s0, fltMask, handedState, dispatchedState, dispatchedPkt]

/-- SUCCESS: the first entry that holds the packet is marked (R277). -/
theorem exec_stTransmitting_of_success {b a : List Entry} {m : Entry} (hanswers : s.txAnswers = true :: as)
    (hfirst : splitFirst (isDispatched (dispatchedPkt e s)) (dispatchedState before after e s).tq = some (b, m, a)) :
    exec (.stTransmitting now) s = .next { handedState before after e w now as s with
      preempt := cs
      st := if qosOf (dispatchedPkt e s) then .enterListen else .enterTransmit
      tq := if qosOf m.pkt then b ++ { m with sentCount := bumpCount m, lastSent := now } :: a else b ++ a } := by
  let s0 : State := { s with preempt := cs, st := .transmitting }
  rw [exec_stTransmitting_of_wire htick hcuts hq hsend hbefore hwire,
    drive_transmit 2 (dispatchedState before after e s0) now _ w true as hanswers, if_pos rfl, drive_eq_runAll (by simp)]
  exact congrArg _ (runAll_mark (s := handedState before after e w now as s0) htick now _ hfirst)

end Handed

end Transmitting

/-- Settles O42: without a sendable entry, or with one the wire refuses. -/
theorem stTransmittingWithoutTransmission : Obligations.StTransmittingWithoutTransmission := by
  intro now s cs htick hcuts
  refine ⟨exec_stTransmitting_of_none htick hcuts, ?_⟩
  intro before after e hq hsend hbefore hlen hkey halign p b a m hsplit hseq hpkt hb
  have hplen : p.length = e.pkt.length := length_dispatchedPkt e s
  have hwire : toWire (dispatchedPkt e s) (linkKey s) = .error ⟨.eAlign, [p.length]⟩ :=
    toWire_linkKey_of_unaligned (hplen ▸ hlen) hkey (hplen ▸ halign)
  have hfirst := splitFirst_isDispatched p _ b a m hsplit hseq hpkt hb
  rw [exec_stTransmitting_of_refused htick hcuts hq hsend hbefore hwire, runAll_dropEntry (by exact htick) _ hfirst]
  rfl

/-- Settles O43: a failure initialises the driver again, a success marks the first entry that holds the packet. -/
theorem stTransmittingAttempt : Obligations.StTransmittingAttempt := by
  intro now s before after e ok as cs htick hcuts hq hsend hbefore hlen halign hanswers p w q s1
  have hplen : p.length = e.pkt.length := length_dispatchedPkt e s
  have hwire : toWire (dispatchedPkt e s) (linkKey s) = .ok w :=
    toWire_linkKey_of_aligned (hplen ▸ hlen) fun h => (congrArg (· % 16) hplen).trans (halign h)
  constructor
  · rintro rfl ready is hinit
    rw [exec_stTransmitting_of_failure htick hcuts hq hsend hbefore hwire hanswers hinit]
    rfl
  · rintro rfl b a m hsplit hseq hpkt hb
    have hfirst := splitFirst_isDispatched p q b a m hsplit hseq hpkt hb
    have hrun := exec_stTransmitting_of_success htick hcuts hq hsend hbefore hwire hanswers hfirst
    have hp : dispatchedPkt e s = p := rfl
    rw [congrArg qosOf hpkt, hp] at hrun
    refine ⟨fun hqos => ?_, fun hqos => ⟨bumpCount m, (bumpCount_spec m).1, bumpCount_eq_succ m, ?_⟩⟩
    · rwa [hqos] at hrun
    · rwa [hqos] at hrun

end Sys2Proof.Machine
end

section
/-! SUPPORT. The refusals of `LS.SEND` (R279, R324 (i)), `LS.RESET` (R281) and `CFG.RD` (R283). Settles the obligations on
them. -/

namespace Sys2Proof.Machine

/-! ## `LS.SEND` refused (R279, R324 (i)) -/

section SendRefusals

variable {data : Buf} {type : PType} {dest : Byte} {allowDrop : Bool} {s : State} (requireAck : Bool)
  (hdata : data ≠ [])

include hdata

/-- A destination wider than an address (R279). -/
theorem execLsSend_of_badDest (hdest : 15 < dest.toNat) :
    execLsSend data type dest requireAck allowDrop s = .next (finish opLsSend .eBadCmd (.bool false) s) := by
  rw [execLsSend, if_neg (mt List.isEmpty_iff.1 hdata), if_pos hdest]

variable (hdest : dest.toNat ≤ 15)

include hdest

/-- A type that is not known (R279). -/
theorem execLsSend_of_badType (htype : type ∉ s.params.knownTypes) :
    execLsSend data type dest requireAck allowDrop s = .next (finish opLsSend .eType (.bool false) s) := by
  rw [execLsSend, if_neg (mt List.isEmpty_iff.1 hdata), if_neg (Nat.not_lt.2 hdest), if_pos htype]

/-- Where the first sub-step finds no room, its code is the answer (R279). -/
theorem execLsSend_of_noRoom {c : Code} {t : State} (htype : type ∈ s.params.knownTypes) (hc : c ≠ .ok)
    (hroom : sendRoom type allowDrop ((data.length + s.params.maxPayload - 1) / s.params.maxPayload) s = (c, t)) :
    execLsSend data type dest requireAck allowDrop s = .next (finish opLsSend c (.bool false) t) := by
  rw [execLsSend, if_neg (mt List.isEmpty_iff.1 hdata), if_neg (Nat.not_lt.2 hdest), if_neg (not_not.2 htype),
    length_chunksOf, hroom]
  exact if_neg hc

end SendRefusals

section SendRoom

variable {type : PType} {allowDrop : Bool} {s : State}

/-- The cap refuses a droppable send of no exempt type (R193, R279). -/
theorem sendCapped_iff : (allowDrop && decide (type ∉ s.params.exemptTypes) && capReached s) = true ↔
    allowDrop = true ∧ type ∉ s.params.exemptTypes ∧ s.params.qCap ≤ s.tq.length := by
  simp only [Bool.and_eq_true, decide_eq_true_eq, capReached, and_assoc]

theorem sendRoom_of_capped (k : Nat)
    (hcap : allowDrop = true ∧ type ∉ s.params.exemptTypes ∧ s.params.qCap ≤ s.tq.length) :
    sendRoom type allowDrop k s = (.eQfull, release s) := by
  simp only [sendRoom, atomic, if_pos (sendCapped_iff.2 hcap)]

/-- There is no room for all fragments (R279). -/
theorem sendRoom_of_full {k : Nat}
    (hcap : ¬(allowDrop = true ∧ type ∉ s.params.exemptTypes ∧ s.params.qCap ≤ s.tq.length))
    (hfull : ∃ d, s.params.qDepth = some d ∧ d < s.tq.length + k) :
    sendRoom type allowDrop k s = (.eQovf, release (raise .eQovf [s.tq.length] s)) := by
  simp only [sendRoom, atomic, if_neg (mt sendCapped_iff.1 hcap), if_pos ((exceedsDepth_iff s _).2 hfull)]

end SendRoom

/-- Settles O51, test by test. -/
theorem lsSendRefusals : Obligations.LsSendRefusals := by
  intro data type dest requireAck allowDrop s capped full answer run
  refine ⟨fun hempty => ?_, fun hdata hdest => ?_, fun hdata hdest htype => ?_, fun hdata hdest htype hcap => ?_,
    fun hdata hdest htype hcap hfull => ?_⟩
  · subst hempty
    rfl
  · exact execLsSend_of_badDest requireAck hdata hdest
  · exact execLsSend_of_badType requireAck hdata hdest htype
  · exact execLsSend_of_noRoom requireAck hdata hdest htype (by decide) (sendRoom_of_capped _ hcap)
  · refine (execLsSend_of_noRoom requireAck hdata hdest htype (by decide) (sendRoom_of_full hcap hfull)).trans ?_
    simp [finish, emit, release, raise, logRec, fltMask, answer, opLsSend]

/-! ## `LS.RESET` (R281, R370) -/

/-- After a reset every counter is 0 and every tracker empty (R45, R281). -/
theorem resetBlock_cleared (s : State) (a : Addr) :
    seqAt (resetBlock s) a = 0 ∧ trackerAt (resetBlock s) a = Tracker.empty := by
  simp [seqAt, trackerAt, resetBlock, State.init]

/-- Settles O52: the counters and trackers are replicated reset values; every other field is read off `resetBlock`. -/
theorem lsResetClearsBlock : Obligations.LsResetClearsBlock := by
  intro s htick hsends
  refine ⟨_, execLsReset_of_idle ⟨htick, hsends⟩, rfl, rfl, rfl, rfl, rfl, rfl, rfl, fun a => ?_, rfl, rfl, rfl, rfl, rfl,
    rfl, rfl, rfl, rfl, rfl, rfl, rfl, rfl, rfl, rfl, rfl, rfl, rfl, rfl, rfl, rfl, rfl, rfl⟩
  obtain ⟨hseq, htracker⟩ := resetBlock_cleared s a
  exact ⟨hseq, congrArg Tracker.lastValid htracker, congrArg Tracker.frags htracker⟩

/-! ## `CFG.RD` (R283) -/

/-- A bit as a register value. -/
theorem setWidth_ofBool (b : Bool) : (BitVec.ofBool b).setWidth 256 = if b then 1 else 0 := by cases b <;> rfl

/-- Settles O55, register by register. -/
theorem cfgRdResult : Obligations.CfgRdResult := by
  intro reg s
  have hrun : exec (.cfgRd reg) s = execCfgRd reg s := rfl
  rw [hrun]
  cases reg with
  | keyEn | promisc => simp only [execCfgRd, readReg, setWidth_ofBool, finish, emit, opCfgRd]
  | addr | sf | key | timeout | maxRetry | flt => rfl

end Sys2Proof.Machine
end
